-- ==== Sys2Proof/Word.lean ====
section
/-! DEFINITION. The word types of the BFIO framer (00_scope.md R8, 20_memory.md R64, R65). -/

namespace Sys2Proof

/-- A byte: a BWM cell, a wire byte, a function ID, a chunk's payload (R8). -/
abbrev Byte := BitVec 8

/-- A host register or one host bus word (R8: every register is 32 bits wide). -/
abbrev Word := BitVec 32

/-- A chunk cell: 16 bits, of which the values 0 to 1023 are chunks (R8, R68, R93). -/
abbrev Chunk := BitVec 16

/-- A host bus byte address (R65: the host address space is 20 bits). -/
abbrev Addr := BitVec 20

end Sys2Proof
end

