-- ==== Sys2Proof/Config.lean ====
section
/-! DEFINITION. The configuration of one block (00_scope.md R6, 10_state.md R50, R51): what the spec calls
parameters. None of it changes at run time. The one uninterpreted constant of the model, the answer function of
an application, is declared here without a body. -/

namespace Sys2Proof

/-- ROLE (R6): a Master issues requests, a Slave answers them. -/
inductive Role where
  | master
  | slave
deriving DecidableEq, Repr

/-- The scalar kinds of 41_scalar.md R107, in the order of their tag numbers 0 to 11. -/
inductive TypeTag where
  | bool
  | u8
  | i8
  | u16
  | i16
  | u32
  | i32
  | u64
  | i64
  | f32
  | f64
  | text
deriving DecidableEq, Repr

/-- ANSWER_FN for the gates other than gate 0 (45_gate.md R205): the echo of the example configuration, or the
`k`-th of a family of functions about which nothing is known (DESIGN CHOICE, log 5). -/
inductive AnswerFn where
  | echo
  | application (k : Nat)
deriving DecidableEq, Repr

/-- The answer functions of applications (R205: OPEN, total and pure). An uninterpreted constant: it has no body, so
what is proved of the model holds whatever the application answers (log 5). -/
opaque Config.applicationAnswer : Nat → Byte → List (List Byte) → Option (List (List Byte))

/-- One entry of the gate table GATES (10_state.md R50). -/
structure GateConf where
  gateID : Byte
  /-- The largest plane the gate sends or docks, in chunks. -/
  maxSizeOfPlane : Nat
  /-- R50: default 1000. -/
  arrivalTimeOutMS : Word := 1000#32
  departTypes : List TypeTag
  arriveTypes : List TypeTag
deriving DecidableEq, Repr

/-- The parameters of 00_scope.md R6 other than the gate table. -/
structure Params where
  role : Role
  sizeOfArrivalPlane : Nat
  sizeOfDepartureTaxiway : Nat
  runwayBufferSize : Nat
  rxFifoDepth : Nat
  /-- `none` is the default of R6, unbounded. -/
  rxBytesPerTick : Option Nat := none
  bwmSize : Nat
  pwmSize : Nat
  tickMS : Nat := 1
  divPayload : Byte := 0#8
  supported : List Byte
  answer : AnswerFn
deriving DecidableEq, Repr

/-- The whole configuration of one block (R6): the parameters and the gate table. -/
structure Config where
  params : Params
  gates : List GateConf
deriving DecidableEq, Repr

/-- One row of the gate table of the example configuration EX1 (95_test_vectors.md 0.1). -/
def Config.ex1Gate (id : Byte) (depart arrive : List TypeTag) : GateConf :=
  { gateID := id, maxSizeOfPlane := 8, departTypes := depart, arriveTypes := arrive }

/-- The gate table of EX1 (95_test_vectors.md 0.1). -/
def Config.ex1Gates : List GateConf :=
  [ ex1Gate 0 [.bool] [.bool],
    ex1Gate 1 [.u8] [.u8],
    ex1Gate 2 [.u8] [.u8],
    ex1Gate 3 [.u8] [.u8],
    ex1Gate 4 [.u8] [.u8],
    ex1Gate 5 [.u8] [.u8],
    ex1Gate 6 [.u8] [.u8],
    ex1Gate 7 [.text] [.text],
    ex1Gate 8 [] [.u8] ]

/-- The example configuration EX1 of 95_test_vectors.md 0.1 for a role. The spec leaves these parameters OPEN:
State.reset holds EX1 only because a state must hold some configuration (DESIGN CHOICE, log 4). -/
def Config.ex1 (role : Role) : Config :=
  { params :=
      { role := role
        sizeOfArrivalPlane := 8
        sizeOfDepartureTaxiway := 4
        runwayBufferSize := 8
        rxFifoDepth := 16
        bwmSize := 64
        pwmSize := 64
        supported := [0, 1, 2, 3, 4, 5, 6, 7, 8]
        answer := .echo }
    gates := ex1Gates }

end Sys2Proof
end

