-- ==== Sys2Proof/Syntax.lean ====
section
/-! DEFINITION. The commands (30_encoding.md R88), the fields of a command word (R85), and the events of the three
agents (00_scope.md R13). A command has no operand in its word: every operand is in ARG0 to ARG3 (R85). -/

namespace Sys2Proof

/-- The 29 commands of the opcode map (R88), one constructor for each row of spec/opcode_table.json. -/
inductive Instr where
  | nop
  | chunkEncode
  | chunkDecode
  | chunkToWire
  | chunkFromWire
  | scalarToBytes
  | scalarToData
  | scalarGetArraySize
  | pktCreate
  | pktAppend
  | pktSegFromBytes
  | pktVerifyCheckSum
  | pktGetTotalSize
  | pktVerifyID
  | pktGetParamCount
  | pktSegToBytes
  | pktFullyAnalyze
  | pktGetParameter
  | termPut
  | termIsOnTaxiway
  | termPop
  | termArriveChunk
  | termTakeArrival
  | termArrivalInfo
  | termReset
  | gateRequest
  | gateRead
  | gateStatus
  | gateDock
deriving DecidableEq, Repr

/-- The two fields of a command word (R85). -/
structure CmdWord where
  /-- bits [7:0] -/
  opcode : Byte
  /-- bits [31:8], must be zero -/
  mbz : BitVec 24
deriving DecidableEq, Repr

/-- One event of one agent (00_scope.md R13). A host access carries its width in bits, because an access of another
width than 32 can be attempted and is refused (20_memory.md R71). -/
inductive Input where
  /-- the Host reads at a byte address -/
  | hostRead (addr : Addr) (width : Nat)
  /-- the Host writes at a byte address -/
  | hostWrite (addr : Addr) (width : Nat) (data : Word)
  /-- one tick of the periodic callback (44_runway.md R171) -/
  | tick
  /-- the line delivers one byte (44_runway.md R168) -/
  | rxByte (b : Byte)
  /-- the line takes one byte (44_runway.md R169) -/
  | txTake
  /-- the environment drives `link_up` (44_runway.md R169) -/
  | setLink (up : Bool)
deriving DecidableEq, Repr

end Sys2Proof
end

