-- ==== Sys2Proof/WellFormed.lean ====
section
/-! DEFINITION. What is well formed: a command word (30_encoding.md R84, R85, R89), the shape of a host access
(20_memory.md R71) and a configuration (00_scope.md R6, 10_state.md R51). -/

namespace Sys2Proof

/-- The opcodes that R89 does not call illegal. Written from the ranges of R89; the decoder is written from the map
of R88, and Laws/Decode.lean proves that the two agree. -/
def listedOpcode (op : Byte) : Bool :=
  op.toNat == 0 || (0x10 ≤ op.toNat && op.toNat ≤ 0x13) || (0x20 ≤ op.toNat && op.toNat ≤ 0x22) ||
    (0x30 ≤ op.toNat && op.toNat ≤ 0x39) || (0x40 ≤ op.toNat && op.toNat ≤ 0x46) ||
    (0x60 ≤ op.toNat && op.toNat ≤ 0x63)

/-- A command word is legal when MBZ is zero and its opcode is listed (R84, R89). -/
def CmdWord.wf (c : CmdWord) : Bool := c.mbz == 0 && listedOpcode c.opcode

/-- A host access has a legal shape when it is 32 bits wide and word-aligned (R70, R71). -/
def accessShapeOK (addr : Addr) (width : Nat) : Bool := width == 32 && addr.toNat % 4 == 0

/-- The size constraints of R6. -/
def Params.sizesOK (p : Params) : Bool :=
  (4 ≤ p.sizeOfArrivalPlane && p.sizeOfArrivalPlane ≤ 65535) &&
    (1 ≤ p.sizeOfDepartureTaxiway && p.sizeOfDepartureTaxiway ≤ 255) &&
    (4 ≤ p.runwayBufferSize && p.runwayBufferSize ≤ 65535) && 2 ≤ p.rxFifoDepth &&
    (1 ≤ p.bwmSize && p.bwmSize ≤ 65536) && (1 ≤ p.pwmSize && p.pwmSize ≤ 65536) && 1 ≤ p.tickMS

/-- RX_BYTES_PER_TICK is unbounded or at least 2 (R6). -/
def Params.rxRateOK (p : Params) : Bool := p.rxBytesPerTick.all (2 ≤ ·)

/-- SUPPORTED contains 0 to 8 and neither 9 nor 10 (R6). -/
def Params.supportedOK (p : Params) : Bool :=
  ([0, 1, 2, 3, 4, 5, 6, 7, 8] : List Byte).all (p.supported.contains ·) &&
    !p.supported.contains 9 && !p.supported.contains 10

/-- Gate IDs are pairwise distinct and supported (10_state.md R51). -/
def Config.gateIDsOK (c : Config) : Bool :=
  decide ((c.gates.map (·.gateID)).Nodup) && c.gates.all (c.params.supported.contains ·.gateID)

/-- There is a gate for each of the IDs 0 to 8 (R51). -/
def Config.mandatoryOK (c : Config) : Bool :=
  ([0, 1, 2, 3, 4, 5, 6, 7, 8] : List Byte).all fun id => c.gates.any (·.gateID == id)

/-- Gate 0 carries one Bool each way (R51). -/
def Config.pingOK (c : Config) : Bool :=
  c.gates.all fun g => g.gateID != 0 || (g.departTypes == [.bool] && g.arriveTypes == [.bool])

/-- Gate 8 sends nothing and docks one U8 (R51). -/
def Config.errorGateOK (c : Config) : Bool :=
  c.gates.all fun g => g.gateID != 8 || (g.departTypes == [] && g.arriveTypes == [.u8])

/-- Every gate's largest plane has at least 4 chunks and fits the runway buffer (R51). -/
def Config.planeSizesOK (c : Config) : Bool :=
  c.gates.all fun g => 4 ≤ g.maxSizeOfPlane && g.maxSizeOfPlane ≤ c.params.runwayBufferSize

/-- A configuration of this block (R6, R51): a table that breaks a constraint is none. -/
def Config.wf (c : Config) : Bool :=
  c.params.sizesOK && c.params.rxRateOK && c.params.supportedOK && c.gateIDsOK && c.mandatoryOK && c.pingOK &&
    c.errorGateOK && c.planeSizesOK

end Sys2Proof
end

