-- ==== Sys2Proof/Decode.lean ====
section
/-! DEFINITION. The decoder of command words (30_encoding.md R84, R85, R88, R89), total on every 32-bit word and
rejecting by name, and the encoder beside it. -/

namespace Sys2Proof

/-- Why a word is no command (R84, R89). -/
inductive DecodeError where
  /-- `w[31:8] != 0` -/
  | mbzNonzero
  /-- `w[7:0]` is not in the opcode map -/
  | opcodeUnlisted
deriving DecidableEq, Repr

/-- The fields of a word (R85). -/
def CmdWord.ofWord (w : Word) : CmdWord := ⟨w.extractLsb' 0 8, w.extractLsb' 8 24⟩

/-- The word of two fields (R85). -/
def CmdWord.toWord (c : CmdWord) : Word := c.mbz ++ c.opcode

/-- The opcode map (R88), row by row. -/
def opcodeMap : List (Byte × Instr) :=
  [ (0x00, .nop),
    (0x10, .chunkEncode),
    (0x11, .chunkDecode),
    (0x12, .chunkToWire),
    (0x13, .chunkFromWire),
    (0x20, .scalarToBytes),
    (0x21, .scalarToData),
    (0x22, .scalarGetArraySize),
    (0x30, .pktCreate),
    (0x31, .pktAppend),
    (0x32, .pktSegFromBytes),
    (0x33, .pktVerifyCheckSum),
    (0x34, .pktGetTotalSize),
    (0x35, .pktVerifyID),
    (0x36, .pktGetParamCount),
    (0x37, .pktSegToBytes),
    (0x38, .pktFullyAnalyze),
    (0x39, .pktGetParameter),
    (0x40, .termPut),
    (0x41, .termIsOnTaxiway),
    (0x42, .termPop),
    (0x43, .termArriveChunk),
    (0x44, .termTakeArrival),
    (0x45, .termArrivalInfo),
    (0x46, .termReset),
    (0x60, .gateRequest),
    (0x61, .gateRead),
    (0x62, .gateStatus),
    (0x63, .gateDock) ]

/-- The command of an opcode (R88), `none` for an opcode of R89. -/
def commandOf (op : Byte) : Option Instr :=
  (opcodeMap.find? (·.1 == op)).map (·.2)

/-- The decoder (R84): it looks at the word alone, never at a state (R90). -/
def decode (w : Word) : Except DecodeError Instr :=
  let c := CmdWord.ofWord w
  if c.mbz ≠ 0 then .error .mbzNonzero
  else
    match commandOf c.opcode with
    | some i => .ok i
    | none => .error .opcodeUnlisted

/-- The opcode of a command (R88). -/
def opcodeOf : Instr → Byte
  | .nop => 0x00
  | .chunkEncode => 0x10
  | .chunkDecode => 0x11
  | .chunkToWire => 0x12
  | .chunkFromWire => 0x13
  | .scalarToBytes => 0x20
  | .scalarToData => 0x21
  | .scalarGetArraySize => 0x22
  | .pktCreate => 0x30
  | .pktAppend => 0x31
  | .pktSegFromBytes => 0x32
  | .pktVerifyCheckSum => 0x33
  | .pktGetTotalSize => 0x34
  | .pktVerifyID => 0x35
  | .pktGetParamCount => 0x36
  | .pktSegToBytes => 0x37
  | .pktFullyAnalyze => 0x38
  | .pktGetParameter => 0x39
  | .termPut => 0x40
  | .termIsOnTaxiway => 0x41
  | .termPop => 0x42
  | .termArriveChunk => 0x43
  | .termTakeArrival => 0x44
  | .termArrivalInfo => 0x45
  | .termReset => 0x46
  | .gateRequest => 0x60
  | .gateRead => 0x61
  | .gateStatus => 0x62
  | .gateDock => 0x63

/-- The encoder: the word the host writes to CMD (R85; every command is well formed, since it has no operand). -/
def encode (i : Instr) : Word := (CmdWord.mk (opcodeOf i) 0).toWord

/-- The instruction the decoder reads from a table row's bits: a command is one 32-bit bus word, and every bit at or
above `nbits` is 0. -/
def decodeTableWord (nbits w : Nat) : Option Instr :=
  (decode (BitVec.ofNat 32 (w % 2 ^ nbits))).toOption

end Sys2Proof
end

