-- ==== Sys2Proof/Machine/State.lean ====
section
/-! DEFINITION. The state of one block (10_state.md R24 to R56), the reasons a step can stop, and the state after
reset (R54). Plain data throughout. -/

namespace Sys2Proof.Machine

/-- The two model faults of 00_scope.md R15. The hardware has neither. -/
inductive Fault where
  /-- UNINIT_READ: raised by a command or a host read that reads a BWM or PWM cell no step has written since reset
  (20_memory.md R67). Safe: the hardware goes on with some unspecified value, the model stops. -/
  | uninitRead
  /-- BUS_REFUSED: raised by a host access that is not a 32-bit aligned access inside a defined window
  (20_memory.md R71). Safe: the model stops. -/
  | busRefused
deriving DecidableEq, Repr

/-- Why a step has no meaning. -/
inductive Refusal where
  /-- Raised by an arm of `exec` whose command has no meaning yet. No arm of this model raises it. Safe. -/
  | notModelled (mnemonic : String)
  /-- Raised by the link event `txTake` when `txQueue` is empty: 44_runway.md R169 enables that event only when the
  queue is not empty, so no such step exists. Safe: the model stops (log 14). -/
  | txTakeNotEnabled
deriving DecidableEq, Repr

/-- The result codes (00_scope.md R12, 60_exceptions.md R229), in the order of their numbers 0 to 6. -/
inductive ResultCode where
  | passed
  | crashed
  | failed
  | noConnection
  | incompatibility
  | bypassed
  | unecessary
deriving DecidableEq, Repr

/-- `arrState` (R41). -/
inductive ArrState where
  | idle
  | receiving
  | complete
deriving DecidableEq, Repr

/-- A TerminalStatus (R42). -/
inductive TerminalStatus where
  | initialised
  | notEnoughSpace
  | overflowing
  | departureAvailable
  | arrivalReady
deriving DecidableEq, Repr

/-- The terminal's `currentMode`, CTRL.MODE (R31, R44). -/
inductive TermMode where
  | regular
  | rejectIncoming
deriving DecidableEq, Repr

/-- A HighwayStatus (R46). -/
inductive HighwayStatus where
  | empty
  | jammed
  | traffic
  | closed
  | stopped
  | error
deriving DecidableEq, Repr

/-- A GateStatus (R49). -/
inductive GateStatus where
  | cleaned
  | readyForDeparture
  | awaitingArrival
  | justLeft
  | availableArrival
deriving DecidableEq, Repr

/-- `txOwner` (R45): which object owns the plane being sent. -/
inductive TxOwner where
  | none
  | gate (id : Byte)
  | errSlot
deriving DecidableEq, Repr

/-- The conditions EVENTS reports (60_exceptions.md R231), in the order of their bits 0 to 18. -/
inductive Event where
  | strayChunk
  | incorrectChunkReceived
  | arrivalOverflow
  | arrivalAborted
  | arrivalDiscarded
  | rejectedPlane
  | wireError
  | rxOverrun
  | planeRejected
  | errorPlaneSent
  | errorPlaneDropped
  | unsolicitedPlane
  | gateTimeout
  | answerAvailable
  | arrivalReady
  | illegalCmd
  | errorReceived
  | answerQueued
  | planeDeparted
deriving DecidableEq, Repr

/-- A gate: its entry of the gate table (R50, never written) and its state (R48). -/
structure Gate where
  conf : GateConf
  status : GateStatus
  timer : Word
  lastResult : ResultCode
  /-- the plane the gate will send -/
  depPlane : List Chunk
  /-- the parameters of the last plane docked into the gate -/
  arrParams : List (List Byte)
deriving DecidableEq, Repr

/-- The four cells of the error plane slot (R52, 45_gate.md R211). -/
structure ErrPlane where
  start : Chunk
  div : Chunk
  code : Chunk
  check : Chunk
deriving DecidableEq, Repr

/-- A work memory (20_memory.md R64, R67): the cells written since reset, each with its address. An unlisted address
is an unwritten cell and reads as no value (DESIGN CHOICE, log 10). A `Memory 8` is a list of `Host.Cell`. -/
abbrev Memory (w : Nat) := List (Nat × BitVec w)

/-- The one canonical form of a memory: addresses strictly rising. No entry can equal what an unlisted address reads
as, since that is no value. -/
abbrev Memory.wf {w : Nat} (m : Memory w) : Prop := (m.map Prod.fst).Pairwise (· < ·)

/-- The state of one block (R24), with its configuration (R6, written by no step) and the model's own two fields. -/
structure State where
  /-- the parameters of R6 (log 4) -/
  params : Params
  /-- GATES with the state of each gate (R48, R50) -/
  gates : List Gate
  arg0 : Word
  arg1 : Word
  arg2 : Word
  arg3 : Word
  /-- RESULT (R26) -/
  result : ResultCode
  ret0 : Word
  ret1 : Word
  ret2 : Word
  ret3 : Word
  /-- CTRL.ENABLE (R31) -/
  enable : Bool
  /-- CTRL.MODE (R31, R44) -/
  mode : TermMode
  /-- CTRL.AUTO_DOCK (R31) -/
  autoDock : Bool
  /-- EVENTS [18:0] (R36); bits [31:19] read 0 -/
  events : BitVec 19
  /-- IRQ_ENABLE [18:0] (R37); bits [31:19] read 0 -/
  irqEnable : BitVec 19
  /-- TICK_COUNT (R35) -/
  tickCount : Word
  arrState : ArrState
  packetAvailable : Bool
  /-- `arrBuf[0 .. cursor-1]`; `cursor` is its length (R41, log 8) -/
  arrBuf : List Chunk
  runSum : Byte
  receivingID : Byte
  arrivalStatus : TerminalStatus
  departureStatus : TerminalStatus
  /-- `tax[0 .. taxCount-1]`, oldest first; `taxCount` is its length (R43, log 8) -/
  tax : List Byte
  sending : Bool
  /-- `txBuf[0 .. txLen-1]`; `txLen` is its length (R45, log 8) -/
  txBuf : List Chunk
  txChunk : Nat
  txID : Byte
  txOwner : TxOwner
  hwStatus : HighwayStatus
  rejectedThisTick : Bool
  rxLatch : Byte
  rxLatchValid : Bool
  rxFifo : List Byte
  txQueue : List Byte
  /-- the input `link_up` (R47) -/
  linkUp : Bool
  errPlane : ErrPlane
  errValid : Bool
  bwm : Memory 8
  pwm : Memory 16
  /-- the model's own: the word the host's last read was given (log 7) -/
  hostData : Word
  /-- the model's own: the coming events of the three agents (log 1) -/
  inputs : List Input
deriving DecidableEq, Repr

/-- `cursor` (R41): the number of chunks stored for the current plane. -/
def State.cursor (s : State) : Nat := s.arrBuf.length

/-- `taxCount` (R43). -/
def State.taxCount (s : State) : Nat := s.tax.length

/-- `txLen` (R45). -/
def State.txLen (s : State) : Nat := s.txBuf.length

/-- The configuration of a state (R6): no step changes it. -/
def State.config (s : State) : Config := { params := s.params, gates := s.gates.map (·.conf) }

/-- A gate at reset (R54). -/
def Gate.fresh (c : GateConf) : Gate :=
  { conf := c
    status := .cleaned
    timer := 0
    lastResult := .passed
    depPlane := []
    arrParams := [] }

/-- The state after power-on of a block with a configuration and a level of `link_up` (R54, 70_reset_and_hazards.md
R249). The cells of `errPlane` and `rejectedThisTick` are zero (DESIGN CHOICE, log 9), and so is `hostData` (DESIGN
CHOICE, log 7). -/
def State.powerOn (c : Config) (link : Bool) : State :=
  { params := c.params
    gates := c.gates.map Gate.fresh
    arg0 := 0
    arg1 := 0
    arg2 := 0
    arg3 := 0
    result := .passed
    ret0 := 0
    ret1 := 0
    ret2 := 0
    ret3 := 0
    enable := true
    mode := .regular
    autoDock := true
    events := 0
    irqEnable := 0
    tickCount := 0
    arrState := .idle
    packetAvailable := false
    arrBuf := []
    runSum := 0
    receivingID := 0
    arrivalStatus := .initialised
    departureStatus := .initialised
    tax := []
    sending := false
    txBuf := []
    txChunk := 0
    txID := 0
    txOwner := .none
    hwStatus := .empty
    rejectedThisTick := false
    rxLatch := 0
    rxLatchValid := false
    rxFifo := []
    txQueue := []
    linkUp := link
    errPlane := ⟨0, 0, 0, 0⟩
    errValid := false
    bwm := []
    pwm := []
    hostData := 0
    inputs := [] }

/-- The machine right after reset: EX1 as a Master, `link_up` = 1 (R54, R249; DESIGN CHOICE for the configuration,
log 4, and for the link, log 6). No event is waiting (DESIGN CHOICE, log 1). -/
def State.reset : State := State.powerOn (Config.ex1 .master) true

end Sys2Proof.Machine
end

