-- ==== Sys2Proof/Machine/Flags.lean ====
section
/-! DEFINITION. Every number a host sees of a named value, the EVENTS bits and their report, the interrupt output, the
highway status and the registers computed from the state (10_state.md R30 to R39, 44_runway.md R182,
60_exceptions.md R229 to R233). -/

namespace Sys2Proof.Machine

/-- The numbers of the result codes (R229). -/
def ResultCode.code : ResultCode → BitVec 3
  | .passed => 0
  | .crashed => 1
  | .failed => 2
  | .noConnection => 3
  | .incompatibility => 4
  | .bypassed => 5
  | .unecessary => 6

/-- The numbers of `arrState` (R41). -/
def ArrState.code : ArrState → BitVec 2
  | .idle => 0
  | .receiving => 1
  | .complete => 2

/-- The numbers of the terminal statuses (R42). -/
def TerminalStatus.code : TerminalStatus → BitVec 3
  | .initialised => 0
  | .notEnoughSpace => 1
  | .overflowing => 2
  | .departureAvailable => 3
  | .arrivalReady => 4

/-- The numbers of the highway statuses (R46). -/
def HighwayStatus.code : HighwayStatus → BitVec 3
  | .empty => 0
  | .jammed => 1
  | .traffic => 2
  | .closed => 3
  | .stopped => 4
  | .error => 5

/-- The numbers of the gate statuses (R49). -/
def GateStatus.code : GateStatus → BitVec 3
  | .cleaned => 0
  | .readyForDeparture => 1
  | .awaitingArrival => 2
  | .justLeft => 3
  | .availableArrival => 4

/-- ROLE as INFO shows it (R30). -/
def roleBit : Role → BitVec 1
  | .master => 0
  | .slave => 1

/-- CTRL.MODE as a bit (R31). -/
def TermMode.bit : TermMode → BitVec 1
  | .regular => 0
  | .rejectIncoming => 1

/-- The bit numbers of EVENTS (R231). -/
def Event.bit : Event → Nat
  | .strayChunk => 0
  | .incorrectChunkReceived => 1
  | .arrivalOverflow => 2
  | .arrivalAborted => 3
  | .arrivalDiscarded => 4
  | .rejectedPlane => 5
  | .wireError => 6
  | .rxOverrun => 7
  | .planeRejected => 8
  | .errorPlaneSent => 9
  | .errorPlaneDropped => 10
  | .unsolicitedPlane => 11
  | .gateTimeout => 12
  | .answerAvailable => 13
  | .arrivalReady => 14
  | .illegalCmd => 15
  | .errorReceived => 16
  | .answerQueued => 17
  | .planeDeparted => 18

/-- The mask of one EVENTS bit. -/
def Event.mask (e : Event) : BitVec 19 := BitVec.twoPow 19 e.bit

/-- `event(NAME)` (00_scope.md R9): sets one sticky bit and no other state (R232). -/
def State.report (e : Event) (s : State) : State := { s with events := s.events ||| e.mask }

/-- `event(NAME)` where a condition holds. -/
def State.reportIf (c : Bool) (e : Event) (s : State) : State := if c then s.report e else s

/-- The interrupt output (R233): a level. -/
def State.irq (s : State) : Bool := s.events &&& s.irqEnable != 0

/-- Whether the tick runs the receive and transmit phases (44_runway.md R171). -/
def State.live (s : State) : Bool := s.enable && s.linkUp

/-- `highway()` (44_runway.md R182): the first matching line. -/
def State.highway (s : State) : HighwayStatus :=
  if s.enable = false then .stopped
  else if s.linkUp = false then .closed
  else if s.rejectedThisTick = true then .error
  else if s.taxCount = s.params.sizeOfDepartureTaxiway then .jammed
  else if s.sending = true ∨ s.taxCount > 0 then .traffic
  else .empty

/-- The word with value `v` in the field whose lowest bit is `lo`, and zeros elsewhere. -/
def field (v lo : Nat) : Word := BitVec.ofNat 32 (v * 2 ^ lo)

/-- INFO (R30): revision 7, ROLE in bit 8. -/
def State.infoWord (s : State) : Word := field 7 0 ||| field (roleBit s.params.role).toNat 8

/-- CTRL (R31): ENABLE, MODE, AUTO_DOCK; SOFT_RESET and the reserved bits read 0. -/
def State.ctrlWord (s : State) : Word :=
  field s.enable.toNat 0 ||| field s.mode.bit.toNat 1 ||| field s.autoDock.toNat 2

/-- STATUS (R33). -/
def State.statusWord (s : State) : Word :=
  field s.arrState.code.toNat 0 ||| field s.packetAvailable.toNat 2 ||| field s.arrivalStatus.code.toNat 4 |||
    field s.departureStatus.code.toNat 8 ||| field s.hwStatus.code.toNat 12 ||| field s.sending.toNat 15 |||
    field (s.taxCount % 256) 16 ||| field s.rxLatchValid.toNat 24 ||| field s.irq.toNat 25 ||| field s.errValid.toNat 26

/-- ARRIVAL_INFO (R34). -/
def State.arrivalInfoWord (s : State) : Word :=
  field s.receivingID.toNat 0 ||| field (s.cursor % 65536) 8 ||| field s.runSum.toNat 24

/-- TX_INFO (R38). -/
def State.txInfoWord (s : State) : Word := field (s.txChunk % 65536) 0 ||| field (s.txLen % 65536) 16

/-- PARAMS0 (R39). -/
def State.params0Word (s : State) : Word :=
  field (s.params.sizeOfArrivalPlane % 65536) 0 ||| field (s.params.sizeOfDepartureTaxiway % 256) 16

end Sys2Proof.Machine
end

