-- ==== Sys2Proof/Machine/Operands.lean ====
section
/-! DEFINITION. The operand shapes of 30_encoding.md R86: what a command takes from an ARG register. Nothing is
sign-extended on the way in. -/

namespace Sys2Proof.Machine

/-- A byte operand: bits [7:0], bits [31:8] ignored (R86). -/
def argByte (v : Word) : Byte := v.setWidth 8

/-- An operand that names a range of cells (20_memory.md R69, R86). -/
structure Range where
  addr : Nat
  len : Nat
deriving DecidableEq, Repr

/-- A range operand: `addr = v[15:0]`, `len = v[31:16]` (R86). -/
def argRange (v : Word) : Range := ⟨(v.extractLsb' 0 16).toNat, (v.extractLsb' 16 16).toNat⟩

/-- A range is valid when it ends within the memory, computed without wrap-around (R69). -/
def Range.fits (r : Range) (size : Nat) : Bool := r.addr + r.len ≤ size

/-- A 64-bit value operand: ARG1 holds bits [31:0], ARG2 bits [63:32] (R86). -/
def argValue64 (lo hi : Word) : BitVec 64 := hi ++ lo

/-- A chunk operand: the whole register, so that a value above 1023 reaches the command's check (R86). -/
def argChunk (v : Word) : Option Chunk := if v.toNat ≤ 1023 then some (v.setWidth 16) else none

/-- A type tag operand: the whole register against the legal range (R86, 41_scalar.md R107). -/
def argTypeTag (v : Word) : Option TypeTag :=
  match v.toNat with
  | 0 => some .bool
  | 1 => some .u8
  | 2 => some .i8
  | 3 => some .u16
  | 4 => some .i16
  | 5 => some .u32
  | 6 => some .i32
  | 7 => some .u64
  | 8 => some .i64
  | 9 => some .f32
  | 10 => some .f64
  | 11 => some .text
  | _ => none

end Sys2Proof.Machine
end

