-- ==== Sys2Proof/Machine/Ops.lean ====
section
/-! DEFINITION. The named operations over memory, gates and RESULT that every command is written with. The block has
no exception to take and none to return from (60_exceptions.md R234, R235): a command that cannot do its work reports a
result code, by `finish`, and a tick reports an event, by `State.report`. -/

namespace Sys2Proof.Machine

/-- What a command answers. -/
abbrev Answer := Host.Outcome State Fault Refusal

/-- The value of a cell, `none` where no step has written it since reset (20_memory.md R67). -/
def Memory.read {w : Nat} : Memory w → Nat → Option (BitVec w)
  | [], _ => none
  | (b, v) :: rest, a => if a = b then some v else Memory.read rest a

/-- Stores one cell and marks it written (R67), keeping the addresses strictly rising. -/
def Memory.write {w : Nat} : Memory w → Nat → BitVec w → Memory w
  | [], a, v => [(a, v)]
  | (b, x) :: rest, a, v =>
    if a < b then (a, v) :: (b, x) :: rest
    else if a = b then (a, v) :: rest
    else (b, x) :: Memory.write rest a v

/-- The cells `a .. a+n-1` as they are, unwritten ones among them, for a command that may stop before the end. -/
def Memory.cells {w : Nat} (m : Memory w) (a n : Nat) : List (Option (BitVec w)) :=
  (List.range n).map fun i => m.read (a + i)

/-- All of a list of cells, `none` where one of them is unwritten. -/
def allWritten {α : Type} : List (Option α) → Option (List α)
  | [] => some []
  | none :: _ => none
  | some v :: rest => (allWritten rest).map (v :: ·)

/-- `MemRead` (00_scope.md R9): the cells `a .. a+n-1`, `none` where one of them is unwritten. -/
def Memory.readRange {w : Nat} (m : Memory w) (a n : Nat) : Option (List (BitVec w)) := allWritten (m.cells a n)

/-- `MemWrite` (00_scope.md R9): stores consecutive cells from address `a`. -/
def Memory.writeRange {w : Nat} : Memory w → Nat → List (BitVec w) → Memory w
  | m, _, [] => m
  | m, a, v :: vs => Memory.writeRange (m.write a v) (a + 1) vs

/-- A command ends with a result code and writes RESULT (10_state.md R26). -/
def finish (r : ResultCode) (s : State) : Answer := .next { s with result := r }

/-- A command goes on with cells it has read, or raises UNINIT_READ (20_memory.md R67). -/
def reading {α : Type} (cells : Option α) (go : α → Answer) : Answer :=
  match cells with
  | none => .fault .uninitRead
  | some v => go v

/-- The gate with a gate ID (45_gate.md R213). The table's IDs are distinct (10_state.md R51). -/
def State.gate? (s : State) (id : Byte) : Option Gate := s.gates.find? (·.conf.gateID == id)

/-- The gate an ARG register names: the whole register is compared (45_gate.md, head of the file). -/
def State.gateOfWord? (s : State) (v : Word) : Option Gate :=
  if v.toNat < 256 then s.gate? (v.setWidth 8) else none

/-- Changes the gate with a gate ID and no other (R213). -/
def State.updateGate (id : Byte) (f : Gate → Gate) (s : State) : State :=
  { s with gates := s.gates.map fun g => if g.conf.gateID = id then f g else g }

/-- A number in a RET register: zero-extended to 32 bits (30_encoding.md R87). -/
def retNat (n : Nat) : Word := BitVec.ofNat 32 n

/-- The block reset (70_reset_and_hazards.md R249): every piece of state takes its reset value; the configuration, the
input `link_up`, and the model's own fields, which belong to the block's surroundings, are kept. -/
def State.blockReset (s : State) : State :=
  { State.powerOn s.config s.linkUp with hostData := s.hostData, inputs := s.inputs }

end Sys2Proof.Machine
end

