-- ==== Sys2Proof/Machine/Codec.lean ====
section
/-! DEFINITION. The codecs shared by the commands, the terminal, the runway and the gates: chunks and their wire form
(40_chunk.md R100), scalars (41_scalar.md R107 to R109), planes (42_packet.md R117 to R121) and parameter records
(45_gate.md R193 to R195, R202). -/

namespace Sys2Proof.Machine

/-- The four chunk types (30_encoding.md R93). -/
inductive ChunkType where
  | byte
  | div
  | start
  | check
deriving DecidableEq, Repr

/-- The band index of a chunk type (R93). -/
def ChunkType.index : ChunkType → Nat
  | .byte => 0
  | .div => 1
  | .start => 2
  | .check => 3

/-- `typeOf(c)` (00_scope.md R11): a value above 1023 has no type. -/
def typeOf (c : Chunk) : Option ChunkType :=
  match c.toNat / 256 with
  | 0 => some .byte
  | 1 => some .div
  | 2 => some .start
  | 3 => some .check
  | _ => none

/-- A cell holds a chunk when its value is at most 1023 (R93). -/
def isChunk (c : Chunk) : Bool := c.toNat ≤ 1023

/-- `byteOf(c)` (R11). -/
def byteOf (c : Chunk) : Byte := c.setWidth 8

/-- `encode(v, t)` (40_chunk.md R100): `256 * t + v`. -/
def encodeChunk (v : Byte) (t : ChunkType) : Chunk := BitVec.ofNat 16 (256 * t.index + v.toNat)

/-- `toWire(c)` (R100): `(c >> 8, c & 0xFF)`. -/
def toWire (c : Chunk) : Byte × Byte := ((c >>> 8).setWidth 8, c.setWidth 8)

/-- `fromWire(b0, b1)` (R100): defined for `b0 <= 3`. -/
def fromWire (b0 b1 : Byte) : Option Chunk :=
  if b0.toNat ≤ 3 then some (BitVec.ofNat 16 (b0.toNat * 256 + b1.toNat)) else none

/-- The width in bytes of a scalar kind, 0 for Text (41_scalar.md R107). -/
def tagWidth : TypeTag → Nat
  | .bool => 1
  | .u8 => 1
  | .i8 => 1
  | .u16 => 2
  | .i16 => 2
  | .u32 => 4
  | .i32 => 4
  | .u64 => 8
  | .i64 => 8
  | .f32 => 4
  | .f64 => 8
  | .text => 0

/-- The kinds that are sign-extended on the way out (R107). -/
def tagSigned : TypeTag → Bool
  | .i8 => true
  | .i16 => true
  | .i32 => true
  | .i64 => true
  | _ => false

/-- The `w` low-order bytes of a value, little-endian (R108). -/
def toBytesLE (val : BitVec 64) (w : Nat) : List Byte := (List.range w).map fun i => val.extractLsb' (8 * i) 8

/-- The value of bytes in little-endian order (R108, R111). -/
def ofBytesLE : List Byte → Nat
  | [] => 0
  | b :: rest => b.toNat + 256 * ofBytesLE rest

/-- A raw value of `w` bytes, sign- or zero-extended to 64 bits (R111). -/
def extend64 (signed : Bool) (w raw : Nat) : BitVec 64 :=
  if signed then (BitVec.ofNat (8 * w) raw).signExtend 64 else BitVec.ofNat 64 raw

/-- `cks(S)` (42_packet.md R117): the payload bytes summed mod 256, whatever the chunk types. -/
def cks (cells : List Chunk) : Byte := cells.foldl (fun acc c => acc + byteOf c) 0

/-- `P[1 .. n-2]`: what lies between the first and the last chunk of a plane (R96, R117). -/
def inner (P : List Chunk) : List Chunk := (P.drop 1).dropLast

/-- The scan for the Check chunk (R118), at index `i` of the range. Cells after the stop are not read: an unwritten
cell met before the stop answers `none`, which is UNINIT_READ. -/
def scanCheck : List (Option Chunk) → Nat → Option (Except ResultCode Nat)
  | [], _ => some (.error .crashed)
  | none :: _, _ => none
  | some c :: rest, i =>
    if isChunk c = false then some (.error .crashed)
    else if typeOf c = some .check then some (.ok (i + 1))
    else scanCheck rest (i + 1)

/-- `totalSize(a, cap)` (R118) over the cells of the range. -/
def totalSize : List (Option Chunk) → Option (Except ResultCode Nat)
  | [] => some (.error .incompatibility)
  | none :: _ => none
  | some c :: rest => if typeOf c = some .start then scanCheck rest 1 else some (.error .incompatibility)

/-- `structureOK(P, n)` (R119). -/
def structureOK (P : List Chunk) : Bool :=
  (inner P).all (fun c => typeOf c = some .byte ∨ typeOf c = some .div) &&
    ((inner P).head?.all fun c => typeOf c = some .div)

/-- What `analyze` tells of a plane (R120): its parameter count and its function ID. The plane itself holds its
size. -/
structure PlaneInfo where
  plane : List Chunk
  paramCount : Nat
  functionID : Byte
deriving DecidableEq, Repr

/-- The number of Div chunks between Start and Check (R120, R128). -/
def paramCount (P : List Chunk) : Nat := (inner P).countP fun c => typeOf c = some .div

/-- The function ID of a plane: the payload of its first chunk (R98). -/
def planeID (P : List Chunk) : Byte := byteOf (P.headD 0)

/-- The checks of `analyze` after `totalSize`, in the order of R120, on the plane found. -/
def checkPlane (supported : List Byte) (P : List Chunk) : Except ResultCode PlaneInfo :=
  if cks (inner P) ≠ byteOf (P.getLastD 0) then .error .failed
  else if supported.contains (planeID P) = false then .error .incompatibility
  else if structureOK P = false then .error .crashed
  else .ok ⟨P, paramCount P, planeID P⟩

/-- `analyze(a, cap)` (R120) over the cells of a range of PWM. -/
def analyzeCells (supported : List Byte) (cells : List (Option Chunk)) : Option (Except ResultCode PlaneInfo) :=
  match totalSize cells with
  | none => none
  | some (.error r) => some (.error r)
  | some (.ok n) => some (checkPlane supported ((cells.take n).filterMap id))

/-- `analyze` over a chunk sequence in place of PWM cells (45_gate.md R197). Every cell of the sequence has a value, so
the scan never answers `none` (Laws/Codec.lean, `totalSize_map_some`) and the default is never taken. -/
def analyzePlane (supported : List Byte) (P : List Chunk) : Except ResultCode PlaneInfo :=
  (analyzeCells supported (P.map some)).getD (.error .crashed)

/-- Splits chunks at the Div chunks: the payload bytes before the first Div, and those after each Div (R121). -/
def splitAtDivs : List Chunk → List Byte × List (List Byte)
  | [] => ([], [])
  | c :: rest =>
    if typeOf c = some .div then ([], (splitAtDivs rest).1 :: (splitAtDivs rest).2)
    else (byteOf c :: (splitAtDivs rest).1, (splitAtDivs rest).2)

/-- `[param(P, n, 0), param(P, n, 1), …]` (R121): the parameters of a plane. -/
def planeParams (P : List Chunk) : List (List Byte) := (splitAtDivs (inner P)).2

/-- A segment: a Div chunk and the Byte chunks of one parameter (30_encoding.md R97). -/
def paramSegment (divPayload : Byte) (B : List Byte) : List Chunk :=
  encodeChunk divPayload .div :: B.map (encodeChunk · .byte)

/-- A plane: Start, the given chunks verbatim, and the Check of their sum (R96, 42_packet.md R122). -/
def makePlane (id : Byte) (cells : List Chunk) : List Chunk :=
  encodeChunk id .start :: (cells ++ [encodeChunk (cks cells) .check])

/-- `build(g, L)` (45_gate.md R202): `none` when the plane is longer than the gate's `maxSizeOfPlane`. -/
def build (divPayload : Byte) (g : GateConf) (L : List (List Byte)) : Option (List Chunk) :=
  let cells := L.flatMap (paramSegment divPayload)
  if cells.length + 2 > g.maxSizeOfPlane then none else some (makePlane g.gateID cells)

/-- One parameter against its type (45_gate.md R195). -/
def typeOK (B : List Byte) (t : TypeTag) : Bool :=
  match t with
  | .text => B.length ≤ 255
  | .bool => B == [0] || B == [1]
  | t => B.length == tagWidth t

/-- `typesOK(L, T)` (R195). -/
def typesOK (L : List (List Byte)) (T : List TypeTag) : Bool :=
  L.length == T.length && (L.zip T).all fun (B, t) => typeOK B t

/-- `parseRecords` (45_gate.md R194) over the cells of the range, in address order. The outer `none` is UNINIT_READ,
the inner one is `fail`. Each record takes at least one cell, so the number of cells is enough fuel. -/
def parseRecords : Nat → List (Option Byte) → Option (Option (List (List Byte)))
  | _, [] => some (some [])
  | 0, _ :: _ => some none
  | _ + 1, none :: _ => none
  | fuel + 1, some k :: rest =>
    if rest.length < k.toNat then some none
    else
      match allWritten (rest.take k.toNat) with
      | none => none
      | some B =>
        match parseRecords fuel (rest.drop k.toNat) with
        | none => none
        | some none => some none
        | some (some L) => some (some (B :: L))

/-- The parameter records of a list of parameters (R193): a length byte, then the bytes, end to end. A docked
parameter has at most 255 bytes (R195), so the length fits its byte (DESIGN CHOICE beyond that,
log 23). -/
def records (L : List (List Byte)) : List Byte := L.flatMap fun B => BitVec.ofNat 8 B.length :: B

/-- ANSWER_FN (45_gate.md R205): gate 0 echoes; the other gates answer as the configuration says. -/
def answerOf (p : Params) (id : Byte) (L : List (List Byte)) : Option (List (List Byte)) :=
  if id = 0 then some L
  else
    match p.answer with
    | .echo => some L
    | .application k => Config.applicationAnswer k id L

/-- `errorPlane(e)` (45_gate.md R211). -/
def errorPlane (divPayload : Byte) (e : ResultCode) : ErrPlane :=
  let code := e.code.setWidth 8
  { start := encodeChunk 8 .start
    div := encodeChunk divPayload .div
    code := encodeChunk code .byte
    check := encodeChunk (divPayload + code) .check }

/-- The four chunks of the error plane slot, in order (R52). -/
def ErrPlane.chunks (e : ErrPlane) : List Chunk := [e.start, e.div, e.code, e.check]

/-- A command over one plane in PWM: the range check of ARG0, the scan of R118, and then the plane found. -/
def withPlane (s : State) (go : List Chunk → Answer) : Answer :=
  let r := argRange s.arg0
  if r.fits s.params.pwmSize = false then finish .failed s
  else
    reading (totalSize (s.pwm.cells r.addr r.len)) fun size =>
      match size with
      | .error code => finish code s
      | .ok n => reading (s.pwm.readRange r.addr n) go

end Sys2Proof.Machine
end

