-- ==== Sys2Proof/Machine/Chunk.lean ====
section
/-! DEFINITION. The chunk codec commands (40_chunk.md R101 to R104). They read ARG registers and write RESULT and RET
registers only (R106). -/

namespace Sys2Proof.Machine

/-- A chunk type operand: the whole register against the legal range (30_encoding.md R86). -/
def argChunkType (v : Word) : Option ChunkType :=
  match v.toNat with
  | 0 => some .byte
  | 1 => some .div
  | 2 => some .start
  | 3 => some .check
  | _ => none

/-- CHUNK_ENCODE (R101). -/
def execChunkEncode (s : State) : Answer :=
  match argChunkType s.arg1 with
  | none => finish .failed s
  | some t => finish .passed { s with ret0 := (encodeChunk (argByte s.arg0) t).setWidth 32 }

/-- CHUNK_DECODE (R102): type index, payload byte, band value. -/
def execChunkDecode (s : State) : Answer :=
  match argChunk s.arg0 with
  | none => finish .incompatibility s
  | some c =>
    finish .passed
      { s with
        ret0 := retNat (c.toNat / 256)
        ret1 := (byteOf c).setWidth 32
        ret2 := s.arg0 - (byteOf c).setWidth 32 }

/-- CHUNK_TOWIRE (R103). -/
def execChunkToWire (s : State) : Answer :=
  match argChunk s.arg0 with
  | none => finish .incompatibility s
  | some c => finish .passed { s with ret0 := (toWire c).1.setWidth 32, ret1 := (toWire c).2.setWidth 32 }

/-- CHUNK_FROMWIRE (R104). -/
def execChunkFromWire (s : State) : Answer :=
  match fromWire (argByte s.arg0) (argByte s.arg1) with
  | none => finish .incompatibility s
  | some c => finish .passed { s with ret0 := c.setWidth 32 }

end Sys2Proof.Machine
end

