-- ==== Sys2Proof/Machine/TerminalOps.lean ====
section
/-! DEFINITION. The terminal's procedures (43_terminal.md R142 to R154, R162): the departure taxiway and the arrival
state machine, run by commands and by the tick. -/

namespace Sys2Proof.Machine

/-- `isOn(id)` (R152). -/
def isOn (id : Byte) (s : State) : Bool := s.tax.contains id

/-- `put(id)` (R151): the duplicate test comes first and changes nothing; a full taxiway sets `departureStatus`. -/
def put (id : Byte) (s : State) : ResultCode × State :=
  if isOn id s then (.failed, s)
  else if s.taxCount = s.params.sizeOfDepartureTaxiway then
    (.failed, { s with departureStatus := .notEnoughSpace })
  else (.passed, { s with tax := s.tax ++ [id], departureStatus := .departureAvailable })

/-- `pop()` (R153): `none` is Unecessary, "nothing to send this tick". -/
def pop (s : State) : Option (Byte × State) :=
  match s.tax with
  | [] => none
  | id :: rest =>
    some (id, { s with
      tax := rest
      departureStatus := if rest.length > 0 then .departureAvailable else .initialised })

/-- `begin(c)` for a Start chunk (R149). -/
def beginPlane (c : Chunk) (s : State) : State :=
  { s with
    arrState := .receiving
    packetAvailable := false
    arrBuf := [c]
    runSum := 0
    receivingID := byteOf c }

/-- The partial plane is dropped and the terminal is Idle (R144, R146, R147). -/
def dropPlane (s : State) : State := { s with arrState := .idle, arrBuf := [], runSum := 0 }

/-- A Byte or Div chunk while Receiving in regular mode (R144). -/
def storePayload (c : Chunk) (s : State) : State :=
  let stored := { s with runSum := s.runSum + byteOf c, arrBuf := s.arrBuf ++ [c] }
  if stored.cursor = s.params.sizeOfArrivalPlane then
    dropPlane { stored.report .arrivalOverflow with arrivalStatus := .notEnoughSpace }
  else stored

/-- A Check chunk while Receiving in regular mode (R146). -/
def closePlane (c : Chunk) (s : State) : State :=
  let stored := { s with arrBuf := s.arrBuf ++ [c] }
  if byteOf c = s.runSum then
    { stored.report .arrivalReady with
      arrState := .complete
      packetAvailable := true
      arrivalStatus := .arrivalReady }
  else dropPlane (stored.report .incorrectChunkReceived)

/-- A Check chunk while Receiving in reject-incoming mode (R147). -/
def closeRejected (c : Chunk) (s : State) : State :=
  dropPlane (s.report (if byteOf c = s.runSum then .rejectedPlane else .incorrectChunkReceived))

/-- A chunk while Receiving (R143 to R147). -/
def arriveReceiving (t : ChunkType) (c : Chunk) (s : State) : State :=
  match t, s.mode with
  | .start, _ => beginPlane c (s.report .arrivalAborted)
  | .byte, .regular => storePayload c s
  | .div, .regular => storePayload c s
  | .byte, .rejectIncoming => { s with runSum := s.runSum + byteOf c }
  | .div, .rejectIncoming => { s with runSum := s.runSum + byteOf c }
  | .check, .regular => closePlane c s
  | .check, .rejectIncoming => closeRejected c s

/-- `arrive(c)` (R142 to R148). Its callers ensure that the cell is a chunk; another value has no type and nothing
happens to it (DESIGN CHOICE, log 17). -/
def arrive (c : Chunk) (s : State) : State :=
  match typeOf c with
  | none => s
  | some t =>
    match s.arrState with
    | .idle => if t = .start then beginPlane c s else s.report .strayChunk
    | .receiving => arriveReceiving t c s
    | .complete => { s.report .arrivalDiscarded with arrivalStatus := .overflowing }

/-- `take()` (R162): the held plane, and the terminal back in Idle. -/
def takeArrival (s : State) : List Chunk × State :=
  (s.arrBuf,
    { s with
      arrState := .idle
      packetAvailable := false
      arrivalStatus := .initialised
      arrBuf := []
      runSum := 0 })

end Sys2Proof.Machine
end

