-- ==== Sys2Proof/Machine/GateOps.lean ====
section
/-! DEFINITION. The gates' procedures (45_gate.md R196 to R200, R204, R209, R211, R220): docking, the error plane, the
slave's answer, departure and the timeout. -/

namespace Sys2Proof.Machine

/-- `sendError(e)` (R211): one error plane at a time. -/
def sendError (e : ResultCode) (s : State) : State :=
  if isOn 8 s = true ∨ s.taxCount = s.params.sizeOfDepartureTaxiway then s.report .errorPlaneDropped
  else
    ((put 8 { s with errPlane := errorPlane s.params.divPayload e, errValid := true }).2).report .errorPlaneSent

/-- What docking stores in a gate (R198, R200). -/
def Gate.docked (L : List (List Byte)) (g : Gate) : Gate :=
  { g with arrParams := L, status := .availableArrival, lastResult := .passed }

/-- `dockError(P)` (R198): an invalid error plane is dropped silently. A gate table without gate 8 is no configuration
(10_state.md R51); there the plane is dropped too (DESIGN CHOICE, log 15). -/
def dockError (P : List Chunk) (s : State) : ResultCode × State :=
  match s.gate? 8 with
  | none => (.failed, s)
  | some g8 =>
    match analyzePlane s.params.supported P with
    | .error r => (r, s)
    | .ok _ =>
      if P.length > g8.conf.maxSizeOfPlane then (.failed, s)
      else if typesOK (planeParams P) g8.conf.arriveTypes = false then (.failed, s)
      else (.passed, (s.updateGate 8 (Gate.docked (planeParams P))).report .errorReceived)

/-- `masterDock(g, L)` (R200), run by the tick and by the commands that dock (DEDUCED against R217, log 21). -/
def masterDock (g : Gate) (L : List (List Byte)) (s : State) : ResultCode × State :=
  if g.status ≠ .awaitingArrival then (.unecessary, s.report .unsolicitedPlane)
  else (.passed, (s.updateGate g.conf.gateID (Gate.docked L)).report .answerAvailable)

/-- What an accepted Request or a queued answer stores in a gate (R201, R204). -/
def Gate.requested (P : List Chunk) (g : Gate) : Gate :=
  { g with depPlane := P, timer := 0, status := .readyForDeparture, lastResult := .passed }

/-- A slave's answer that cannot be built or queued (R204): the gate stays Cleaned. -/
def answerFailed (id : Byte) (s : State) : ResultCode × State :=
  (.failed, (s.updateGate id fun g => { g with lastResult := .failed }).report .planeRejected)

/-- The answer of a slave's gate (R204, from the build of the plane on). -/
def queueAnswer (g : Gate) (A : List (List Byte)) (s : State) : ResultCode × State :=
  match build s.params.divPayload g.conf A with
  | none => answerFailed g.conf.gateID s
  | some P =>
    if typesOK A g.conf.departTypes = false then answerFailed g.conf.gateID s
    else
      match put g.conf.gateID s with
      | (.passed, s1) => (.passed, (s1.updateGate g.conf.gateID (Gate.requested P)).report .answerQueued)
      | (_, s1) => answerFailed g.conf.gateID s1

/-- `slaveDock(g, L)` (R204). -/
def slaveDock (g : Gate) (L : List (List Byte)) (s : State) : ResultCode × State :=
  if g.status ≠ .cleaned then (.failed, sendError .failed s)
  else
    let stored := s.updateGate g.conf.gateID fun g => { g with arrParams := L }
    match answerOf s.params g.conf.gateID L with
    | none => (.passed, stored)
    | some A => queueAnswer g A stored

/-- The checks of `dock` on a plane of a known gate (R197), in order. -/
def dockAtGate (g : Gate) (P : List Chunk) (s : State) : ResultCode × State :=
  match analyzePlane s.params.supported P with
  | .error r => (r, sendError r s)
  | .ok _ =>
    if P.length > g.conf.maxSizeOfPlane then (.failed, sendError .failed s)
    else if typesOK (planeParams P) g.conf.arriveTypes = false then (.failed, sendError .failed s)
    else
      match s.params.role with
      | .master => masterDock g (planeParams P) s
      | .slave => slaveDock g (planeParams P) s

/-- `dock(P)` (R197): dispatch by the plane's function ID (R213). -/
def dock (P : List Chunk) (s : State) : ResultCode × State :=
  if planeID P = 8 then dockError P s
  else
    match s.gate? (planeID P) with
    | none => (.incompatibility, sendError .incompatibility s)
    | some g => dockAtGate g P s

/-- `dockArrival()` (R196): its return value is not kept. -/
def dockArrival (s : State) : State := (dock (takeArrival s).1 (takeArrival s).2).2

/-- One chunk to the arrival state machine, and the dock in the same step when the terminal is then Complete and AUTO_DOCK is
1 (43_terminal.md R158, 44_runway.md R175). A chunk discarded while a plane is held starts the dock too, where AUTO_DOCK was
set to 1 in the meantime (DEDUCED against the sentences of R148 and R196, log 26). -/
def arriveAndDock (c : Chunk) (s : State) : State :=
  if (arrive c s).arrState = .complete ∧ (arrive c s).autoDock = true then dockArrival (arrive c s) else arrive c s

/-- `departed(g)` (R209). -/
def Gate.departed (role : Role) (g : Gate) : Gate :=
  match role with
  | .master => { g with status := .awaitingArrival }
  | .slave => { g with status := .cleaned, lastResult := .passed }

/-- Whether a gate's timer counts (R220). -/
def Gate.waiting (g : Gate) : Bool :=
  g.status = .readyForDeparture ∨ g.status = .justLeft ∨ g.status = .awaitingArrival

/-- The timer of a gate after a tick: it counts TICK_MS while the gate waits, saturating (R220). -/
def Gate.nextTimer (tickMS : Nat) (g : Gate) : Word :=
  if g.waiting then BitVec.ofNat 32 (min (g.timer.toNat + tickMS) (2 ^ 32 - 1)) else g.timer

/-- Whether a gate times out in this tick (R220): strictly more than `arrivalTimeOutMS` counted. -/
def Gate.expires (tickMS : Nat) (g : Gate) : Bool :=
  g.status = .awaitingArrival ∧ (g.nextTimer tickMS).toNat > g.conf.arrivalTimeOutMS.toNat

/-- `update(g)` (R220) on the gate. -/
def Gate.update (tickMS : Nat) (g : Gate) : Gate :=
  if g.expires tickMS then { g with timer := g.nextTimer tickMS, lastResult := .noConnection, status := .cleaned }
  else { g with timer := g.nextTimer tickMS }

/-- `update(g)` for every gate (44_runway.md R171): each reads and writes only its own gate and EVENTS, so the order
among gates does not matter (DEDUCED, log 19). -/
def updateGates (s : State) : State :=
  { s with gates := s.gates.map (Gate.update s.params.tickMS) }.reportIf
    (s.gates.any (Gate.expires s.params.tickMS)) .gateTimeout

end Sys2Proof.Machine
end

