-- ==== Sys2Proof/Machine/Gate.lean ====
section
/-! DEFINITION. The gate commands (45_gate.md R201, R206 to R208). -/

namespace Sys2Proof.Machine

/-- GATE_REQUEST once its records are parsed (R201, R203): the type check, the plane, the taxiway, the gate. -/
def requestWith (g : Gate) (L : List (List Byte)) (s : State) : Answer :=
  if typesOK L g.conf.departTypes = false then finish .failed s
  else
    match build s.params.divPayload g.conf L with
    | none => finish .failed s
    | some P =>
      match put g.conf.gateID s with
      | (.passed, s1) =>
        finish .passed { s1.updateGate g.conf.gateID (Gate.requested P) with ret0 := retNat P.length }
      | (_, s1) => finish .failed s1

/-- GATE_REQUEST (R201). -/
def execGateRequest (s : State) : Answer :=
  let src := argRange s.arg1
  if src.fits s.params.bwmSize = false then finish .failed s
  else
    match s.gateOfWord? s.arg0 with
    | none => finish .incompatibility s
    | some g =>
      if s.params.role = .slave ∨ s.arg0 = 8 ∨ g.status ≠ .cleaned then finish .failed s
      else
        reading (parseRecords src.len (s.bwm.cells src.addr src.len)) fun parsed =>
          match parsed with
          | none => finish .failed s
          | some L => requestWith g L s

/-- GATE_READ (R206): `lastResult` and `arrParams` are kept. -/
def execGateRead (s : State) : Answer :=
  let dst := argRange s.arg1
  if dst.fits s.params.bwmSize = false then finish .failed s
  else
    match s.gateOfWord? s.arg0 with
    | none => finish .incompatibility s
    | some g =>
      if g.status ≠ .availableArrival then finish .bypassed s
      else if (records g.arrParams).length > dst.len then finish .failed s
      else
        finish .passed
          { s.updateGate g.conf.gateID (fun g => { g with status := .cleaned }) with
            bwm := s.bwm.writeRange dst.addr (records g.arrParams)
            ret0 := retNat (records g.arrParams).length
            ret1 := retNat g.arrParams.length }

/-- GATE_STATUS (R207). -/
def execGateStatus (s : State) : Answer :=
  match s.gateOfWord? s.arg0 with
  | none => finish .incompatibility s
  | some g =>
    finish .passed
      { s with
        ret0 := g.status.code.setWidth 32
        ret1 := g.lastResult.code.setWidth 32
        ret2 := g.timer
        ret3 := g.conf.arrivalTimeOutMS }

/-- GATE_DOCK (R208): the same dock as the terminal's, with all its effects; no RET register. -/
def execGateDock (s : State) : Answer :=
  withPlane s fun P =>
    let docked := dock P s
    finish docked.1 docked.2

end Sys2Proof.Machine
end

