-- ==== Sys2Proof/Machine/Packet.lean ====
section
/-! DEFINITION. The packet assembly and parsing commands (42_packet.md R122 to R131). Each checks its ranges first
(20_memory.md R69), reads cells only as its rule reaches them (R67), and reads every source cell before it writes
(R75). -/

namespace Sys2Proof.Machine

/-- Stores a chunk sequence in PWM and returns its length in RET0. -/
def storePwm (a : Nat) (cells : List Chunk) (s : State) : State :=
  { s with pwm := s.pwm.writeRange a cells, ret0 := retNat cells.length }

/-- Stores bytes in BWM and returns their number in RET0. -/
def storeBwm (a : Nat) (bytes : List Byte) (s : State) : State :=
  { s with bwm := s.bwm.writeRange a bytes, ret0 := retNat bytes.length }

/-- PKT_CREATE (R122). -/
def execPktCreate (s : State) : Answer :=
  let src := argRange s.arg1
  let dst := argRange s.arg2
  if src.fits s.params.pwmSize = false ∨ dst.fits s.params.pwmSize = false then finish .failed s
  else if src.len + 2 > dst.len then finish .failed s
  else
    reading (s.pwm.readRange src.addr src.len) fun S =>
      if S.all isChunk = false then finish .crashed s
      else finish .passed (storePwm dst.addr (makePlane (argByte s.arg0) S) s)

/-- PKT_APPEND (R123). -/
def execPktAppend (s : State) : Answer :=
  let a := argRange s.arg0
  let b := argRange s.arg1
  let dst := argRange s.arg2
  if a.fits s.params.pwmSize = false ∨ b.fits s.params.pwmSize = false ∨ dst.fits s.params.pwmSize = false then
    finish .failed s
  else if a.len + b.len > dst.len then finish .failed s
  else
    reading (s.pwm.readRange a.addr a.len) fun A =>
      reading (s.pwm.readRange b.addr b.len) fun B => finish .passed (storePwm dst.addr (A ++ B) s)

/-- PKT_SEGFROMBYTES (R124). -/
def execPktSegFromBytes (s : State) : Answer :=
  let src := argRange s.arg0
  let dst := argRange s.arg1
  if src.fits s.params.bwmSize = false ∨ dst.fits s.params.pwmSize = false then finish .failed s
  else if src.len + 1 > dst.len then finish .failed s
  else
    reading (s.bwm.readRange src.addr src.len) fun B =>
      finish .passed (storePwm dst.addr (paramSegment s.params.divPayload B) s)

/-- PKT_VERIFYCHECKSUM (R125). -/
def execPktVerifyCheckSum (s : State) : Answer :=
  withPlane s fun P =>
    if cks (inner P) = byteOf (P.getLastD 0) then finish .passed { s with ret0 := retNat P.length }
    else finish .failed s

/-- PKT_GETTOTALSIZE (R126). -/
def execPktGetTotalSize (s : State) : Answer :=
  withPlane s fun P => finish .passed { s with ret0 := retNat P.length }

/-- PKT_VERIFYID (R127): only the first cell is read. -/
def execPktVerifyID (s : State) : Answer :=
  let r := argRange s.arg0
  if r.fits s.params.pwmSize = false then finish .failed s
  else if r.len = 0 then finish .incompatibility s
  else
    reading (s.pwm.read r.addr) fun c =>
      if typeOf c ≠ some .start then finish .incompatibility s
      else if s.params.supported.contains (byteOf c) = true then
        finish .passed { s with ret0 := (byteOf c).setWidth 32 }
      else finish .incompatibility s

/-- PKT_GETPARAMCOUNT (R128): the checksum and the structure are not checked. -/
def execPktGetParamCount (s : State) : Answer :=
  withPlane s fun P => finish .passed { s with ret0 := retNat (paramCount P) }

/-- The chunks after the Div of a segment, in order (R129): `none` is UNINIT_READ, an error is the first cell that is
no Byte chunk. Cells after it are not read
(DEDUCED from R67, log 12). -/
def segmentBytes : List (Option Chunk) → Option (Except ResultCode (List Byte))
  | [] => some (.ok [])
  | none :: _ => none
  | some c :: rest =>
    if typeOf c ≠ some .byte then some (.error .crashed)
    else
      match segmentBytes rest with
      | none => none
      | some (.error r) => some (.error r)
      | some (.ok B) => some (.ok (byteOf c :: B))

/-- PKT_SEGTOBYTES (R129). -/
def execPktSegToBytes (s : State) : Answer :=
  let src := argRange s.arg0
  let dst := argRange s.arg1
  if src.fits s.params.pwmSize = false ∨ dst.fits s.params.bwmSize = false then finish .failed s
  else if src.len = 0 then finish .failed s
  else
    reading (s.pwm.read src.addr) fun c =>
      if typeOf c ≠ some .div then finish .failed s
      else
        reading (segmentBytes (s.pwm.cells (src.addr + 1) (src.len - 1))) fun bytes =>
          match bytes with
          | .error r => finish r s
          | .ok B => if B.length > dst.len then finish .failed s else finish .passed (storeBwm dst.addr B s)

/-- A command over one analyzed plane in PWM (R120): its failures end the command. -/
def withAnalysis (s : State) (go : PlaneInfo → Answer) : Answer :=
  let r := argRange s.arg0
  reading (analyzeCells s.params.supported (s.pwm.cells r.addr r.len)) fun analysis =>
    match analysis with
    | .error code => finish code s
    | .ok info => go info

/-- PKT_FULLYANALYZE (R130). -/
def execPktFullyAnalyze (s : State) : Answer :=
  if (argRange s.arg0).fits s.params.pwmSize = false then finish .failed s
  else
    withAnalysis s fun info =>
      finish .passed
        { s with
          ret0 := retNat info.plane.length
          ret1 := retNat info.paramCount
          ret2 := info.functionID.setWidth 32 }

/-- PKT_GETPARAMETER (R131): the whole of ARG1 is the index. -/
def execPktGetParameter (s : State) : Answer :=
  let dst := argRange s.arg2
  if (argRange s.arg0).fits s.params.pwmSize = false ∨ dst.fits s.params.bwmSize = false then finish .failed s
  else
    withAnalysis s fun info =>
      match (planeParams info.plane)[s.arg1.toNat]? with
      | none => finish .failed s
      | some B => if B.length > dst.len then finish .failed s else finish .passed (storeBwm dst.addr B s)

end Sys2Proof.Machine
end

