-- ==== Sys2Proof/Machine/Scalar.lean ====
section
/-! DEFINITION. The ScalarCodec commands (41_scalar.md R110 to R112). -/

namespace Sys2Proof.Machine

/-- The value SCALAR_TOBYTES serializes: a Bool takes any nonzero value as true (R109). -/
def scalarValue (t : TypeTag) (v : BitVec 64) : BitVec 64 :=
  match t with
  | .bool => if v = 0 then 0 else 1
  | _ => v

/-- SCALAR_TOBYTES (R110). -/
def execScalarToBytes (s : State) : Answer :=
  let r := argRange s.arg3
  if r.fits s.params.bwmSize = false then finish .failed s
  else
    match argTypeTag s.arg0 with
    | none => finish .failed s
    | some .text => finish .bypassed s
    | some t =>
      if r.len < tagWidth t then finish .failed s
      else
        finish .passed
          { s with
            bwm := s.bwm.writeRange r.addr (toBytesLE (scalarValue t (argValue64 s.arg1 s.arg2)) (tagWidth t))
            ret0 := retNat (tagWidth t) }

/-- SCALAR_TODATA after its bytes are read (R111): a Bool byte other than 0 and 1 fails. -/
def scalarOut (t : TypeTag) (B : List Byte) (s : State) : Answer :=
  if t = .bool ∧ ofBytesLE B > 1 then finish .failed s
  else
    let val := extend64 (tagSigned t) (tagWidth t) (ofBytesLE B)
    finish .passed { s with ret0 := val.extractLsb' 0 32, ret1 := val.extractLsb' 32 32 }

/-- SCALAR_TODATA (R111): only the first `width` bytes of the range are read. -/
def execScalarToData (s : State) : Answer :=
  let r := argRange s.arg3
  if r.fits s.params.bwmSize = false then finish .failed s
  else
    match argTypeTag s.arg0 with
    | none => finish .failed s
    | some .text => finish .bypassed s
    | some t =>
      if r.len < tagWidth t then finish .failed s
      else reading (s.bwm.readRange r.addr (tagWidth t)) fun B => scalarOut t B s

/-- SCALAR_GETARRAYSIZE (R112): 0 for Text. -/
def execScalarGetArraySize (s : State) : Answer :=
  match argTypeTag s.arg0 with
  | none => finish .failed s
  | some t => finish .passed { s with ret0 := retNat (tagWidth t) }

end Sys2Proof.Machine
end

