-- ==== Sys2Proof/Machine/System.lean ====
section
/-! DEFINITION. The system commands (46_system.md R223, R224). -/

namespace Sys2Proof.Machine

/-- NOP (R223). -/
def execNop (s : State) : Answer := finish .passed s

/-- The illegal command (R224): RESULT and EVENTS.ILLEGAL_CMD, and no other state. -/
def execIllegal (s : State) : Answer := finish .incompatibility (s.report .illegalCmd)

end Sys2Proof.Machine
end

