-- ==== Sys2Proof/Machine/Terminal.lean ====
section
/-! DEFINITION. The terminal commands (43_terminal.md R155 to R161). -/

namespace Sys2Proof.Machine

/-- TERM_PUT (R155): the ID is checked against nothing but the taxiway. So the host can put back the ID of a gate that
still waits in ReadyForDeparture after TERM_POP or TERM_RESET (DEDUCED against R258, log 25). -/
def execTermPut (s : State) : Answer :=
  let answer := put (argByte s.arg0) s
  finish answer.1 answer.2

/-- TERM_ISONTAXIWAY (R156). -/
def execTermIsOnTaxiway (s : State) : Answer :=
  finish .passed { s with ret0 := retNat (isOn (argByte s.arg0) s).toNat }

/-- TERM_POP (R157): the popped ID is not sent and its owner is not told: a gate stays in ReadyForDeparture
(70_reset_and_hazards.md R258), and the error plane slot keeps its plane (DEDUCED, log 20). -/
def execTermPop (s : State) : Answer :=
  match pop s with
  | none => finish .unecessary s
  | some (id, popped) => finish .passed { popped with ret0 := id.setWidth 32 }

/-- TERM_ARRIVECHUNK (R158). -/
def execTermArriveChunk (s : State) : Answer :=
  match argChunk s.arg0 with
  | none => finish .incompatibility s
  | some c =>
    let arrived := arriveAndDock c s
    finish .passed { arrived with ret0 := arrived.arrState.code.setWidth 32 }

/-- TERM_TAKEARRIVAL (R160). -/
def execTermTakeArrival (s : State) : Answer :=
  let dst := argRange s.arg0
  if dst.fits s.params.pwmSize = false then finish .failed s
  else if s.arrState ≠ .complete then finish .bypassed s
  else if s.cursor > dst.len then finish .failed s
  else
    let taken := takeArrival s
    finish .passed
      { taken.2 with
        pwm := s.pwm.writeRange dst.addr taken.1
        ret0 := retNat taken.1.length
        ret1 := (planeID taken.1).setWidth 32 }

/-- TERM_ARRIVALINFO (R159). -/
def execTermArrivalInfo (s : State) : Answer :=
  finish .passed
    { s with
      ret0 := s.receivingID.setWidth 32
      ret1 := retNat s.cursor
      ret2 := s.runSum.setWidth 32
      ret3 := s.arrState.code.setWidth 32 }

/-- TERM_RESET (R161): the arrival state, the taxiway and `errValid`, and nothing else: a gate whose ID it removes stays in
ReadyForDeparture (70_reset_and_hazards.md R258). -/
def execTermReset (s : State) : Answer :=
  finish .passed
    { s with
      arrState := .idle
      packetAvailable := false
      arrBuf := []
      runSum := 0
      receivingID := 0
      arrivalStatus := .initialised
      tax := []
      departureStatus := .initialised
      errValid := false }

end Sys2Proof.Machine
end

