-- ==== Sys2Proof/Machine/Dispatch.lean ====
section
/-! DEFINITION. One arm per command: each is one direct call of its meaning. -/

namespace Sys2Proof.Machine

/-- One command, as the host's write to CMD runs it (30_encoding.md R84, R225). -/
def exec (i : Instr) (s : State) : Host.Outcome State Fault Refusal :=
  match i with
  | .nop => Sys2Proof.Machine.execNop s
  | .chunkEncode => Sys2Proof.Machine.execChunkEncode s
  | .chunkDecode => Sys2Proof.Machine.execChunkDecode s
  | .chunkToWire => Sys2Proof.Machine.execChunkToWire s
  | .chunkFromWire => Sys2Proof.Machine.execChunkFromWire s
  | .scalarToBytes => Sys2Proof.Machine.execScalarToBytes s
  | .scalarToData => Sys2Proof.Machine.execScalarToData s
  | .scalarGetArraySize => Sys2Proof.Machine.execScalarGetArraySize s
  | .pktCreate => Sys2Proof.Machine.execPktCreate s
  | .pktAppend => Sys2Proof.Machine.execPktAppend s
  | .pktSegFromBytes => Sys2Proof.Machine.execPktSegFromBytes s
  | .pktVerifyCheckSum => Sys2Proof.Machine.execPktVerifyCheckSum s
  | .pktGetTotalSize => Sys2Proof.Machine.execPktGetTotalSize s
  | .pktVerifyID => Sys2Proof.Machine.execPktVerifyID s
  | .pktGetParamCount => Sys2Proof.Machine.execPktGetParamCount s
  | .pktSegToBytes => Sys2Proof.Machine.execPktSegToBytes s
  | .pktFullyAnalyze => Sys2Proof.Machine.execPktFullyAnalyze s
  | .pktGetParameter => Sys2Proof.Machine.execPktGetParameter s
  | .termPut => Sys2Proof.Machine.execTermPut s
  | .termIsOnTaxiway => Sys2Proof.Machine.execTermIsOnTaxiway s
  | .termPop => Sys2Proof.Machine.execTermPop s
  | .termArriveChunk => Sys2Proof.Machine.execTermArriveChunk s
  | .termTakeArrival => Sys2Proof.Machine.execTermTakeArrival s
  | .termArrivalInfo => Sys2Proof.Machine.execTermArrivalInfo s
  | .termReset => Sys2Proof.Machine.execTermReset s
  | .gateRequest => Sys2Proof.Machine.execGateRequest s
  | .gateRead => Sys2Proof.Machine.execGateRead s
  | .gateStatus => Sys2Proof.Machine.execGateStatus s
  | .gateDock => Sys2Proof.Machine.execGateDock s

end Sys2Proof.Machine
end

