-- ==== Sys2Proof/Machine/Runway.lean ====
section
/-! DEFINITION. The runway and the Tick (44_runway.md R168 to R182): reception, transmission, the link events and the
order of the phases. -/

namespace Sys2Proof.Machine

/-- The link event `rxByte(b)` (R168). -/
def rxByte (b : Byte) (s : State) : State :=
  if s.rxFifo.length < s.params.rxFifoDepth then { s with rxFifo := s.rxFifo ++ [b] } else s.report .rxOverrun

/-- The link event `txTake()` (R169): enabled only when `txQueue` is not empty. The byte taken is the first of
`txQueue`. -/
def txTake (s : State) : Option (Byte × State) :=
  match s.txQueue with
  | [] => none
  | b :: rest => some (b, { s with txQueue := rest })

/-- The link event `setLink(x)` (R169). -/
def setLink (up : Bool) (s : State) : State := { s with linkUp := up }

/-- `rxByteToChunk(b)` (R175). -/
def rxByteToChunk (s : State) (b : Byte) : State :=
  if s.rxLatchValid = false then { s with rxLatch := b, rxLatchValid := true }
  else
    match fromWire s.rxLatch b with
    | none => { s with rxLatchValid := false }.report .wireError
    | some c => arriveAndDock c { s with rxLatchValid := false }

/-- How many bytes one receive phase takes (R174). -/
def rxAmount (s : State) : Nat :=
  match s.params.rxBytesPerTick with
  | none => s.rxFifo.length
  | some k => k

/-- `rxPhase()` (R174): takes the oldest bytes, up to RX_BYTES_PER_TICK, and pairs them in order. Nothing in the loop
reads or fills `rxFifo`, so the bytes are taken out at once
(DEDUCED, log 16). -/
def rxPhase (s : State) : State :=
  (s.rxFifo.take (rxAmount s)).foldl rxByteToChunk { s with rxFifo := s.rxFifo.drop (rxAmount s) }

/-- `reject(o)` (R180). -/
def reject (o : TxOwner) (s : State) : State :=
  let reported := { s with rejectedThisTick := true }.report .planeRejected
  match o with
  | .gate id => reported.updateGate id fun g => { g with lastResult := .failed, status := .cleaned }
  | .none => reported
  | .errSlot => reported

/-- The size check and the copy into the runway buffer (R180). -/
def loadPlane (o : TxOwner) (id : Byte) (P : List Chunk) (max : Nat) (s : State) : State :=
  if P.length > max ∨ P.length > s.params.runwayBufferSize then reject o s
  else
    { s with
      txBuf := P
      txChunk := 0
      txID := id
      txOwner := o
      sending := true
      errValid := if o = .errSlot then false else s.errValid }

/-- `startPlane(id)` (R180): the owner's lookup, then the plane, whether the gate put the ID on the taxiway or the host put
it back with TERM_PUT (DEDUCED against 70_reset_and_hazards.md R258, log 25). A gate table without gate 8 is no configuration
(10_state.md R51); there ID 8 has no owner (DESIGN CHOICE, log 15). -/
def startPlane (id : Byte) (s : State) : State :=
  if id = 8 then
    if s.errValid = false then reject .none s
    else
      match s.gate? 8 with
      | none => reject .none s
      | some g8 => loadPlane .errSlot 8 s.errPlane.chunks g8.conf.maxSizeOfPlane s
  else
    match s.gate? id with
    | none => reject .none s
    | some g =>
      if g.status ≠ .readyForDeparture then reject .none s
      else loadPlane (.gate id) id g.depPlane g.conf.maxSizeOfPlane s

/-- Changes the gate that owns the plane being sent, if a gate owns it (R179). -/
def updateOwner (f : Gate → Gate) (s : State) : State :=
  match s.txOwner with
  | .gate id => s.updateGate id f
  | .none => s
  | .errSlot => s

/-- The owner of a plane of which a chunk is sent (R179). -/
def Gate.leaving (g : Gate) : Gate := if g.status = .readyForDeparture then { g with status := .justLeft } else g

/-- The owner of a plane of which the last chunk is sent (R179). -/
def Gate.left (role : Role) (g : Gate) : Gate := if g.status = .justLeft then g.departed role else g

/-- `sendChunk()` (R179): b0 before b1 (30_encoding.md R95). While sending, `txChunk` is below `txLen`; a state with no
chunk at `txChunk` is reached by no run and sends nothing
(DESIGN CHOICE, log 18). -/
def sendChunk (s : State) : State :=
  match s.txBuf[s.txChunk]? with
  | none => s
  | some c =>
    let sent :=
      updateOwner Gate.leaving
        { s with txQueue := s.txQueue ++ [(toWire c).1, (toWire c).2], txChunk := s.txChunk + 1 }
    if sent.txChunk = sent.txLen then
      updateOwner (Gate.left s.params.role) ({ sent with sending := false }.report .planeDeparted)
    else sent

/-- `if sending == 1: sendChunk()` (R178). -/
def sendIfSending (s : State) : State := if s.sending = true then sendChunk s else s

/-- `txPhase()` (R178): a plane popped in a tick sends its first chunk in that tick. -/
def txPhase (s : State) : State :=
  if s.sending = true then sendChunk s
  else
    match pop s with
    | none => s
    | some (id, popped) => sendIfSending (startPlane id popped)

/-- The end of a tick (R171, R182): the highway status from the state the tick leaves, then TICK_COUNT. -/
def endTick (s : State) : State := { s with hwStatus := s.highway, tickCount := s.tickCount + 1 }

/-- `tick()` (R171): the phases in the spec's order. Nothing in a tick changes what `live` reads. A Slave can
receive a plane and send the first chunk of its answer in one tick (DEDUCED, log 22). -/
def tick (s : State) : State :=
  let begun := { s with rejectedThisTick := false }
  if s.live = true then endTick (txPhase (updateGates (rxPhase begun))) else endTick (updateGates begun)

end Sys2Proof.Machine
end

