-- ==== Sys2Proof/Machine/Bus.lean ====
section
/-! DEFINITION. The host bus (10_state.md R29 to R40, 20_memory.md R65 to R71) and one event of each agent
(00_scope.md R13). -/

namespace Sys2Proof.Machine

/-- Where a word-aligned host address falls (R65). -/
inductive Window where
  | register (addr : Nat)
  | bwmWord (k : Nat)
  | pwmCell (k : Nat)
  | outside
deriving DecidableEq, Repr

/-- The number of words of the BWM window: `ceil(BWM_SIZE / 4)` (R65). -/
def bwmWords (p : Params) : Nat := (p.bwmSize + 3) / 4

/-- The window of an address (R65, R71). -/
def windowOf (p : Params) (addr : Addr) : Window :=
  let a := addr.toNat
  if a < 0x100 then .register a
  else if 0x10000 ≤ a ∧ (a - 0x10000) / 4 < bwmWords p then .bwmWord ((a - 0x10000) / 4)
  else if 0x20000 ≤ a ∧ (a - 0x20000) / 4 < p.pwmSize then .pwmCell ((a - 0x20000) / 4)
  else .outside

/-- A register as the host reads it (R29). CMD and the reserved words read 0 (R40). -/
def readRegister (s : State) (a : Nat) : Word :=
  match a with
  | 0x000 => s.infoWord
  | 0x004 => s.ctrlWord
  | 0x008 => s.statusWord
  | 0x010 => s.arg0
  | 0x014 => s.arg1
  | 0x018 => s.arg2
  | 0x01C => s.arg3
  | 0x020 => s.result.code.setWidth 32
  | 0x024 => s.ret0
  | 0x028 => s.ret1
  | 0x02C => s.ret2
  | 0x030 => s.ret3
  | 0x034 => s.arrivalInfoWord
  | 0x038 => s.tickCount
  | 0x03C => s.events.setWidth 32
  | 0x040 => s.irqEnable.setWidth 32
  | 0x044 => s.txInfoWord
  | 0x048 => s.txID.setWidth 32
  | 0x04C => s.params0Word
  | _ => 0

/-- The byte of a BWM word position: 0 at or above BWM_SIZE, `none` where unwritten (R66). -/
def bwmByte (s : State) (p : Nat) : Option Byte := if p < s.params.bwmSize then s.bwm.read p else some 0

/-- The host word of four BWM bytes, little-endian (R66); `none` is UNINIT_READ. -/
def readBwmWord (s : State) (k : Nat) : Option Word :=
  match bwmByte s (4 * k), bwmByte s (4 * k + 1), bwmByte s (4 * k + 2), bwmByte s (4 * k + 3) with
  | some b0, some b1, some b2, some b3 => some (b3 ++ b2 ++ b1 ++ b0)
  | _, _, _, _ => none

/-- The bytes of a host word that lie below BWM_SIZE, in address order (R66). -/
def bwmWordBytes (p : Params) (k : Nat) (w : Word) : List Byte :=
  ([w.extractLsb' 0 8, w.extractLsb' 8 8, w.extractLsb' 16 8, w.extractLsb' 24 8] : List Byte).take (p.bwmSize - 4 * k)

/-- The host takes the word it read; a read changes nothing else (R76; DESIGN CHOICE, log 7). -/
def deliver (w : Word) (s : State) : Answer := .next { s with hostData := w }

/-- One host read (R70, R71). -/
def hostRead (addr : Addr) (width : Nat) (s : State) : Answer :=
  if accessShapeOK addr width = false then .fault .busRefused
  else
    match windowOf s.params addr with
    | .register a => deliver (readRegister s a) s
    | .bwmWord k => reading (readBwmWord s k) fun w => deliver w s
    | .pwmCell k => reading (s.pwm.read k) fun c => deliver (c.setWidth 32) s
    | .outside => .fault .busRefused

/-- A write to CTRL (R32): the three fields, then the block reset if bit 3 is set. -/
def writeCtrl (w : Word) (s : State) : State :=
  let written :=
    { s with
      enable := w.getLsbD 0
      mode := if w.getLsbD 1 then .rejectIncoming else .regular
      autoDock := w.getLsbD 2 }
  if w.getLsbD 3 then written.blockReset else written

/-- A write to CMD (30_encoding.md R84): one command, or the illegal command. -/
def runCommand (w : Word) (s : State) : Answer :=
  match decode w with
  | .ok i => exec i s
  | .error _ => execIllegal s

/-- A register write (R29): read-only registers and reserved words ignore it (R40); EVENTS is write-one-to-clear
(R36). -/
def writeRegister (a : Nat) (w : Word) (s : State) : Answer :=
  match a with
  | 0x004 => .next (writeCtrl w s)
  | 0x00C => runCommand w s
  | 0x010 => .next { s with arg0 := w }
  | 0x014 => .next { s with arg1 := w }
  | 0x018 => .next { s with arg2 := w }
  | 0x01C => .next { s with arg3 := w }
  | 0x03C => .next { s with events := s.events &&& ~~~(w.setWidth 19) }
  | 0x040 => .next { s with irqEnable := w.setWidth 19 }
  | _ => .next s

/-- One host write (R66, R68, R70, R71). -/
def hostWrite (addr : Addr) (width : Nat) (w : Word) (s : State) : Answer :=
  if accessShapeOK addr width = false then .fault .busRefused
  else
    match windowOf s.params addr with
    | .register a => writeRegister a w s
    | .bwmWord k => .next { s with bwm := s.bwm.writeRange (4 * k) (bwmWordBytes s.params k w) }
    | .pwmCell k => .next { s with pwm := s.pwm.write k (w.setWidth 16) }
    | .outside => .fault .busRefused

/-- One event of one agent (00_scope.md R13). -/
def applyInput (i : Input) (s : State) : Answer :=
  match i with
  | .hostRead addr width => hostRead addr width s
  | .hostWrite addr width data => hostWrite addr width data s
  | .tick => .next (tick s)
  | .rxByte b => .next (rxByte b s)
  | .txTake =>
    match txTake s with
    | none => .refused .txTakeNotEnabled
    | some (_, taken) => .next taken
  | .setLink up => .next (setLink up s)

/-- The write of a command word to CMD, as an event of the Host (30_encoding.md R91: `cmd MNEMONIC`). -/
def cmdWrite (w : Word) : Input := .hostWrite 0x0000C#20 32 w

end Sys2Proof.Machine
end

