-- ==== Sys2Proof/Machine/Step.lean ====
section
/-! DEFINITION. One step of the block: the next event of the three agents (00_scope.md R13, R14). -/

namespace Sys2Proof.Machine

/-- One step takes the next event from the list of inputs and performs it. With no event waiting nothing happens:
between ticks the block does nothing (60_exceptions.md R247; DESIGN CHOICE, log 2). -/
def step (s : State) : Host.Outcome State Fault Refusal :=
  match s.inputs with
  | [] => .next s
  | i :: rest => applyInput i { s with inputs := rest }

/-- The state whose very next event is the host's write to CMD of the command word with these bits (DESIGN
CHOICE, log 3). -/
def State.withFetchWord (s : State) (nbits w : Nat) : State :=
  { s with inputs := cmdWrite (BitVec.ofNat 32 (w % 2 ^ nbits)) :: s.inputs }

end Sys2Proof.Machine
end

