-- ==== Sys2Proof/Safety.lean ====
section
/-! DEFINITION. What a good state is, and the words the statements use: values held in memory, planes, parameters and
the gate table, each written from the rules of the spec and not from the functions of the machine. -/

namespace Sys2Proof

/-! ### Memory -/

/-- The memory holds these values from an address on. -/
def Holds {w : Nat} (m : Machine.Memory w) (a : Nat) (vs : List (BitVec w)) : Prop :=
  ∀ i < vs.length, m.read (a + i) = vs[i]?

/-- `m'` is `m` with these values stored from an address on: every other cell reads as before. -/
def Stored {w : Nat} (m m' : Machine.Memory w) (a : Nat) (vs : List (BitVec w)) : Prop :=
  ∀ b, m'.read b = if a ≤ b ∧ b < a + vs.length then vs[b - a]? else m.read b

/-- The address field of a range operand (20_memory.md R69). -/
def rangeAddr (v : Word) : Nat := v.toNat % 65536

/-- The length field of a range operand (R69). -/
def rangeLen (v : Word) : Nat := v.toNat / 65536

/-- The range of an operand lies in a memory (R69). -/
def InRange (v : Word) (size : Nat) : Prop := rangeAddr v + rangeLen v ≤ size

/-! ### Numbers -/

/-- The value of bytes, the first the least significant (41_scalar.md R108). -/
def littleEndian (B : List Byte) : Nat := B.foldr (fun b acc => b.toNat + 256 * acc) 0

/-- The sum of the payload bytes of chunks, mod 256 (42_packet.md R117). -/
def sum8 (cells : List Chunk) : Nat := (cells.map fun c => c.toNat % 256).sum % 256

/-- The widths of 41_scalar.md R107 by tag number, 0 for Text. -/
def widthOfTag (tag : Nat) : Nat := ([1, 1, 1, 2, 2, 4, 4, 8, 8, 4, 8, 0] : List Nat).getD tag 0

/-- The tag numbers of R107 that are sign-extended. -/
def signedTag (tag : Nat) : Bool := tag == 2 || tag == 4 || tag == 6 || tag == 8

/-- A raw value of a kind as a 64-bit number (41_scalar.md R111). -/
def extended (tag raw : Nat) : Nat :=
  if signedTag tag ∧ 2 ^ (8 * widthOfTag tag - 1) ≤ raw then raw + 2 ^ 64 - 2 ^ (8 * widthOfTag tag) else raw

/-- The 64-bit values a kind represents (R107, R115). -/
def Representable (tag v : Nat) : Prop :=
  if tag = 0 then v ≤ 1
  else if signedTag tag then v < 2 ^ (8 * widthOfTag tag - 1) ∨ 2 ^ 64 - 2 ^ (8 * widthOfTag tag - 1) ≤ v
  else v < 2 ^ (8 * widthOfTag tag)

/-! ### Planes -/

/-- The Start chunk of a function ID (00_scope.md R11). -/
def startChunk (id : Byte) : Chunk := BitVec.ofNat 16 (512 + id.toNat)

/-- The plane of a function ID around some chunks (30_encoding.md R96). -/
def planeOf (id : Byte) (body : List Chunk) : List Chunk :=
  startChunk id :: (body ++ [BitVec.ofNat 16 (768 + sum8 body)])

/-- A segment: a Div chunk and the Byte chunks of a parameter (30_encoding.md R97). -/
def segmentOf (div : Byte) (B : List Byte) : List Chunk :=
  BitVec.ofNat 16 (256 + div.toNat) :: B.map fun b => BitVec.ofNat 16 b.toNat

/-- The plane of a function ID with parameters, every Div chunk with the same payload. -/
def planeWith (id div : Byte) (L : List (List Byte)) : List Chunk := planeOf id (L.flatMap (segmentOf div))

/-- The range of an operand lies in PWM and begins with a Start chunk, some chunks that are no Check, and a Check: what
42_packet.md R118 scans as a plane. -/
def ScansAs (s : Machine.State) (v : Word) (first : Chunk) (mid : List Chunk) (last : Chunk) : Prop :=
  InRange v s.params.pwmSize ∧ mid.length + 2 ≤ rangeLen v ∧ first.toNat / 256 = 2 ∧ (∀ c ∈ mid, c.toNat < 768) ∧
    last.toNat / 256 = 3 ∧ Holds s.pwm (rangeAddr v) (first :: (mid ++ [last]))

/-- The range of an operand lies in PWM and holds this plane from its first cell on. -/
def PlaneAt (s : Machine.State) (v : Word) (id : Byte) (body : List Chunk) : Prop :=
  ScansAs s v (startChunk id) body (BitVec.ofNat 16 (768 + sum8 body))

/-- The range of an operand lies in PWM, and the scan of R118 over it ends with this result code and no plane. -/
def ScanFails (s : Machine.State) (v : Word) (code : Machine.ResultCode) : Prop :=
  InRange v s.params.pwmSize ∧
    ((code = .incompatibility ∧ rangeLen v = 0) ∨
      (∃ first, code = .incompatibility ∧ 0 < rangeLen v ∧ s.pwm.read (rangeAddr v) = some first ∧
        first.toNat / 256 ≠ 2) ∨
      (∃ first mid, code = .crashed ∧ first.toNat / 256 = 2 ∧ (∀ c ∈ mid, c.toNat < 768) ∧
        Holds s.pwm (rangeAddr v) (first :: mid) ∧
        (mid.length + 1 = rangeLen v ∨
          ∃ bad, mid.length + 1 < rangeLen v ∧ 1023 < bad.toNat ∧
            s.pwm.read (rangeAddr v + (mid.length + 1)) = some bad)))

/-- The range of an operand lies in PWM, and the scan of R118 over it meets a cell that no step has written
(20_memory.md R67) before it stops. -/
def ScanMeetsUnwritten (s : Machine.State) (v : Word) : Prop :=
  InRange v s.params.pwmSize ∧
    ((0 < rangeLen v ∧ s.pwm.read (rangeAddr v) = none) ∨
      ∃ first mid, first.toNat / 256 = 2 ∧ (∀ c ∈ mid, c.toNat < 768) ∧ Holds s.pwm (rangeAddr v) (first :: mid) ∧
        mid.length + 1 < rangeLen v ∧ s.pwm.read (rangeAddr v + (mid.length + 1)) = none)

/-! ### Parameters -/

/-- A parameter is one of a kind (45_gate.md R195). -/
def ParamOK (B : List Byte) (t : TypeTag) : Prop :=
  match t with
  | .text => B.length ≤ 255
  | .bool => B = [0] ∨ B = [1]
  | .u8 | .i8 => B.length = 1
  | .u16 | .i16 => B.length = 2
  | .u32 | .i32 | .f32 => B.length = 4
  | .u64 | .i64 | .f64 => B.length = 8

/-- The parameters are of the kinds of a list, one each (R195). -/
def ParamsOK (L : List (List Byte)) (T : List TypeTag) : Prop := List.Forall₂ ParamOK L T

/-- The parameter records of a list of parameters (45_gate.md R193). -/
def recordBytes (L : List (List Byte)) : List Byte := L.flatMap fun B => BitVec.ofNat 8 B.length :: B

/-- The range of an operand lies in BWM and holds exactly the records of these parameters. -/
def RecordsAt (s : Machine.State) (v : Word) (L : List (List Byte)) : Prop :=
  InRange v s.params.bwmSize ∧ (∀ B ∈ L, B.length ≤ 255) ∧ rangeLen v = (recordBytes L).length ∧
    Holds s.bwm (rangeAddr v) (recordBytes L)

/-- What the answer function gives for the parameters of a request (45_gate.md R205): gate 0 and every gate of an echoing
block answer with the parameters themselves, the other gates as the application does. -/
def AnswersWith (p : Params) (id : Byte) (L : List (List Byte)) (answer : Option (List (List Byte))) : Prop :=
  (id = 0 ∨ p.answer = .echo → answer = some L) ∧
    ∀ k, id ≠ 0 → p.answer = .application k → answer = Config.applicationAnswer k id L

/-! ### The gate table -/

/-- No two gates have the same ID (10_state.md R51). -/
def DistinctGates (s : Machine.State) : Prop := (s.gates.map (·.conf.gateID)).Nodup

/-- The operand, compared as a whole register, names no gate (45_gate.md, head of the file). -/
def NamesNoGate (s : Machine.State) (v : Word) : Prop := ∀ g ∈ s.gates, v.toNat ≠ g.conf.gateID.toNat

/-- The gates with the one of an ID changed. -/
def gatesWith (s : Machine.State) (id : Byte) (f : Machine.Gate → Machine.Gate) : List Machine.Gate :=
  s.gates.map fun g => if g.conf.gateID = id then f g else g

/-- An ID can be put on the taxiway (43_terminal.md R151). -/
def TaxiwayTakes (s : Machine.State) (id : Byte) : Prop :=
  id ∉ s.tax ∧ s.tax.length ≠ s.params.sizeOfDepartureTaxiway

/-- The error plane of a result code value (45_gate.md R211). -/
def errorPlaneOf (div : Byte) (code : Nat) : Machine.ErrPlane :=
  { start := 0x208#16
    div := BitVec.ofNat 16 (256 + div.toNat)
    code := BitVec.ofNat 16 code
    check := BitVec.ofNat 16 (768 + (div.toNat + code) % 256) }

/-- `t` is `s` after an error plane of a result code value was queued (R211). -/
def withErrorPlane (s : Machine.State) (code : Nat) : Machine.State :=
  { s with
    errPlane := errorPlaneOf s.params.divPayload code
    errValid := true
    tax := s.tax ++ [8#8]
    departureStatus := .departureAvailable
    events := s.events ||| BitVec.twoPow 19 9 }

/-- The state after an error plane of a result code value is due (R211): queued, or dropped and reported. -/
def afterErrorPlane (s : Machine.State) (code : Nat) : Machine.State :=
  if 8#8 ∈ s.tax ∨ s.tax.length = s.params.sizeOfDepartureTaxiway then
    { s with events := s.events ||| BitVec.twoPow 19 10 }
  else withErrorPlane s code

/-! ### The gate timers -/

/-- What the timer of a waiting gate holds after a tick: TICK_MS more, saturating (45_gate.md R220). -/
def timeCounted (s : Machine.State) (g : Machine.Gate) : Nat := min (g.timer.toNat + s.params.tickMS) (2 ^ 32 - 1)

/-- A gate times out in a tick: it awaits an arrival, and the time counted exceeds its timeout (R220). -/
abbrev TimesOut (s : Machine.State) (g : Machine.Gate) : Prop :=
  g.status = .awaitingArrival ∧ g.conf.arrivalTimeOutMS.toNat < timeCounted s g

/-- `h` is the gate `g` after the gate update of a tick (R220). -/
def Updated (s : Machine.State) (g h : Machine.Gate) : Prop :=
  (g.status = .cleaned ∨ g.status = .availableArrival → h = g) ∧
    (g.status = .readyForDeparture ∨ g.status = .justLeft ∨ (g.status = .awaitingArrival ∧ ¬ TimesOut s g) →
      h = { g with timer := BitVec.ofNat 32 (timeCounted s g) }) ∧
    (TimesOut s g →
      h = { g with timer := BitVec.ofNat 32 (timeCounted s g), lastResult := .noConnection, status := .cleaned })

/-! ### Sequences of host accesses -/

/-- The host writes each value to ARG0 and issues the command, one after the other (30_encoding.md R91): the result
codes, and the state after the last one. A fault ends the sequence. -/
def callEach (i : Instr) : List Word → Machine.State → List Machine.ResultCode × Machine.State
  | [], s => ([], s)
  | v :: rest, s =>
    match Machine.exec i { s with arg0 := v } with
    | .next t => (t.result :: (callEach i rest t).1, (callEach i rest t).2)
    | .fault _ => ([], s)
    | .refused _ => ([], s)

/-- The value of `packetAvailable` after each command of such a sequence. -/
def availableAfterEach (i : Instr) : List Word → Machine.State → List Bool
  | [], _ => []
  | v :: rest, s =>
    match Machine.exec i { s with arg0 := v } with
    | .next t => t.packetAvailable :: availableAfterEach i rest t
    | .fault _ => []
    | .refused _ => []

/-! ### The result codes of each command -/

/-- The table of 46_system.md R228. -/
def resultCodesOf : Instr → List Machine.ResultCode
  | .nop => [.passed]
  | .chunkEncode => [.passed, .failed]
  | .chunkDecode => [.passed, .incompatibility]
  | .chunkToWire => [.passed, .incompatibility]
  | .chunkFromWire => [.passed, .incompatibility]
  | .scalarToBytes => [.passed, .failed, .bypassed]
  | .scalarToData => [.passed, .failed, .bypassed]
  | .scalarGetArraySize => [.passed, .failed]
  | .pktCreate => [.passed, .crashed, .failed]
  | .pktAppend => [.passed, .failed]
  | .pktSegFromBytes => [.passed, .failed]
  | .pktVerifyCheckSum => [.passed, .crashed, .failed, .incompatibility]
  | .pktGetTotalSize => [.passed, .crashed, .failed, .incompatibility]
  | .pktVerifyID => [.passed, .failed, .incompatibility]
  | .pktGetParamCount => [.passed, .crashed, .failed, .incompatibility]
  | .pktSegToBytes => [.passed, .crashed, .failed]
  | .pktFullyAnalyze => [.passed, .crashed, .failed, .incompatibility]
  | .pktGetParameter => [.passed, .crashed, .failed, .incompatibility]
  | .termPut => [.passed, .failed]
  | .termIsOnTaxiway => [.passed]
  | .termPop => [.passed, .unecessary]
  | .termArriveChunk => [.passed, .incompatibility]
  | .termTakeArrival => [.passed, .failed, .bypassed]
  | .termArrivalInfo => [.passed]
  | .termReset => [.passed]
  | .gateRequest => [.passed, .failed, .incompatibility]
  | .gateRead => [.passed, .failed, .incompatibility, .bypassed]
  | .gateStatus => [.passed, .incompatibility]
  | .gateDock => [.passed, .crashed, .failed, .incompatibility, .unecessary]

namespace Machine

/-! ### The invariant -/

/-- Both work memories are in canonical form and list only cells that exist (20_memory.md R64). -/
structure State.MemoryOK (s : State) : Prop where
  bwm_wf : s.bwm.wf
  pwm_wf : s.pwm.wf
  bwm_lt : ∀ e ∈ s.bwm, e.1 < s.params.bwmSize
  pwm_lt : ∀ e ∈ s.pwm, e.1 < s.params.pwmSize

/-- The arrival state is one of 10_state.md R41 and 43_terminal.md R141. -/
structure State.ArrivalOK (s : State) : Prop where
  available : s.packetAvailable = true ↔ s.arrState = .complete
  idle : s.arrState = .idle → s.arrBuf = [] ∧ s.runSum = 0
  receiving : s.arrState = .receiving →
    s.arrBuf.length + 1 ≤ s.params.sizeOfArrivalPlane ∧
      ∃ body, s.arrBuf = startChunk s.receivingID :: body ∧ ∀ c ∈ body, c.toNat < 512
  complete : s.arrState = .complete →
    s.arrBuf.length ≤ s.params.sizeOfArrivalPlane ∧
      ∃ body last, s.arrBuf = startChunk s.receivingID :: (body ++ [last]) ∧ (∀ c ∈ body, c.toNat < 512) ∧
        last.toNat / 256 = 3

/-- The taxiway holds no ID twice and no more IDs than its capacity (10_state.md R43). -/
structure State.TaxiwayOK (s : State) : Prop where
  nodup : s.tax.Nodup
  capacity : s.tax.length ≤ s.params.sizeOfDepartureTaxiway

/-- The runway's state is one of 10_state.md R45, R47 and 20_memory.md R74. The cells of the error plane slot mean nothing
while `errValid` is 0 (R55). -/
structure State.RunwayOK (s : State) : Prop where
  fifo : s.rxFifo.length ≤ s.params.rxFifoDepth
  buffer : s.txBuf.length ≤ s.params.runwayBufferSize
  index : s.txChunk ≤ s.txBuf.length
  sending : s.sending = true → s.txChunk < s.txBuf.length
  chunks : ∀ c ∈ s.txBuf, c.toNat ≤ 1023
  errChunks : s.errValid = true → ∀ c ∈ s.errPlane.chunks, c.toNat ≤ 1023

/-- A gate's state is one of 10_state.md R48 and of the transitions of 45_gate.md R192. -/
structure Gate.OK (role : Role) (g : Gate) : Prop where
  size : g.depPlane.length ≤ g.conf.maxSizeOfPlane
  chunks : ∀ c ∈ g.depPlane, c.toNat ≤ 1023
  ready : g.status = .readyForDeparture → 2 ≤ g.depPlane.length
  params : ∀ B ∈ g.arrParams, B.length ≤ 255
  errorGate : g.conf.gateID = 8 → g.status = .cleaned ∨ g.status = .availableArrival
  slave : role = .slave → g.conf.gateID ≠ 8 → g.status ≠ .awaitingArrival ∧ g.status ≠ .availableArrival

/-- The invariant of the block: its configuration is one, and its state is what the rules of 10_state.md allow. -/
structure State.Inv (s : State) : Prop where
  config : s.config.wf = true
  memory : s.MemoryOK
  arrival : s.ArrivalOK
  taxiway : s.TaxiwayOK
  runway : s.RunwayOK
  gates : ∀ g ∈ s.gates, Gate.OK s.params.role g

end Machine

end Sys2Proof
end

