-- ==== Sys2Proof/Certificates/Slice0/Obligations.lean ====
section
/-! DEFINITION. The statements for the provers: what the rules of spec/ say the commands and the block do. Each
docstring names the rules a statement formalises. -/

open Sys2Proof
open Sys2Proof.Machine

/-! ### Encoding and decoding -/

/-- Command words written out from 30_encoding.md R85 and R88 (opcode in bits 7 to 0, zeros above) decode to the commands
the map names for them, and two words of R89 to none. -/
def Obligations.WrittenWordsDecode : Prop :=
  decode 0x00000000#32 = .ok .nop ∧ decode 0x00000013#32 = .ok .chunkFromWire ∧
    decode 0x00000020#32 = .ok .scalarToBytes ∧ decode 0x00000038#32 = .ok .pktFullyAnalyze ∧
    decode 0x00000043#32 = .ok .termArriveChunk ∧ decode 0x00000060#32 = .ok .gateRequest ∧
    decode 0x00000063#32 = .ok .gateDock ∧ decode 0x00000100#32 = .error .mbzNonzero ∧
    decode 0x00000050#32 = .error .opcodeUnlisted

/-- R84, R89, R90: a word decodes to a command exactly when it is that command's word, and every other word is one of
those R89 calls illegal. -/
def Obligations.DecodeAndEncodeAgree : Prop :=
  (∀ w i, decode w = .ok i ↔ w = encode i) ∧
    ∀ w, (∃ e, decode w = .error e) ↔
      (256 ≤ w.toNat ∨ (0x01 ≤ w.toNat ∧ w.toNat ≤ 0x0F) ∨ (0x14 ≤ w.toNat ∧ w.toNat ≤ 0x1F) ∨
        (0x23 ≤ w.toNat ∧ w.toNat ≤ 0x2F) ∨ (0x3A ≤ w.toNat ∧ w.toNat ≤ 0x3F) ∨
        (0x47 ≤ w.toNat ∧ w.toNat ≤ 0x5F) ∨ (0x64 ≤ w.toNat ∧ w.toNat ≤ 0xFF))

/-- R84, R225: a host write of a command word to CMD runs that command in the same step, on the state in which only the
write is no longer waiting. -/
def Obligations.StepRunsDecodedCommand : Prop :=
  ∀ (s : State) (w : Word) (rest : List Input) (i : Instr),
    s.inputs = cmdWrite w :: rest → decode w = .ok i → step s = exec i { s with inputs := rest }

/-- R223, R224: NOP writes RESULT alone, and a word R89 calls illegal writes RESULT and EVENTS bit 15 alone. -/
def Obligations.SystemCommands : Prop :=
  (∀ s : State, exec .nop s = .next { s with result := .passed }) ∧
    ∀ (s : State) (w : Word) (rest : List Input),
      s.inputs = cmdWrite w :: rest →
      (256 ≤ w.toNat ∨ (0x01 ≤ w.toNat ∧ w.toNat ≤ 0x0F) ∨ (0x14 ≤ w.toNat ∧ w.toNat ≤ 0x1F) ∨
        (0x23 ≤ w.toNat ∧ w.toNat ≤ 0x2F) ∨ (0x3A ≤ w.toNat ∧ w.toNat ≤ 0x3F) ∨
        (0x47 ≤ w.toNat ∧ w.toNat ≤ 0x5F) ∨ (0x64 ≤ w.toNat ∧ w.toNat ≤ 0xFF)) →
      step s = .next
        { s with inputs := rest, result := .incompatibility, events := s.events ||| BitVec.twoPow 19 15 }

/-! ### Chunk commands -/

/-- R101: CHUNK_ENCODE writes RET0 with 256 times the type plus the payload byte, and fails for a type above 3. -/
def Obligations.ChunkEncode : Prop :=
  ∀ s : State,
    (s.arg1.toNat ≤ 3 →
      exec .chunkEncode s = .next
        { s with result := .passed, ret0 := BitVec.ofNat 32 (256 * s.arg1.toNat + s.arg0.toNat % 256) }) ∧
    (3 < s.arg1.toNat → exec .chunkEncode s = .next { s with result := .failed })

/-- R102: CHUNK_DECODE splits a chunk into type index, payload byte and band value, and refuses what is no chunk. -/
def Obligations.ChunkDecode : Prop :=
  ∀ s : State,
    (s.arg0.toNat ≤ 1023 →
      exec .chunkDecode s = .next
        { s with
          result := .passed
          ret0 := BitVec.ofNat 32 (s.arg0.toNat / 256)
          ret1 := BitVec.ofNat 32 (s.arg0.toNat % 256)
          ret2 := BitVec.ofNat 32 (s.arg0.toNat - s.arg0.toNat % 256) }) ∧
    (1023 < s.arg0.toNat → exec .chunkDecode s = .next { s with result := .incompatibility })

/-- R103, R104: CHUNK_TOWIRE gives the two bytes of a chunk, CHUNK_FROMWIRE the chunk of two bytes; each refuses what is
no chunk. -/
def Obligations.ChunkWireForms : Prop :=
  ∀ s : State,
    (s.arg0.toNat ≤ 1023 →
      exec .chunkToWire s = .next
        { s with
          result := .passed
          ret0 := BitVec.ofNat 32 (s.arg0.toNat / 256)
          ret1 := BitVec.ofNat 32 (s.arg0.toNat % 256) }) ∧
    (1023 < s.arg0.toNat → exec .chunkToWire s = .next { s with result := .incompatibility }) ∧
    (s.arg0.toNat % 256 ≤ 3 →
      exec .chunkFromWire s = .next
        { s with
          result := .passed
          ret0 := BitVec.ofNat 32 (s.arg0.toNat % 256 * 256 + s.arg1.toNat % 256) }) ∧
    (3 < s.arg0.toNat % 256 → exec .chunkFromWire s = .next { s with result := .incompatibility })

/-- R105, at the command level: decoding what CHUNK_ENCODE returned gives the type and the byte back, and reading back
what CHUNK_TOWIRE returned gives the chunk back. -/
def Obligations.ChunkRoundTrip : Prop :=
  ∀ s : State,
    (s.arg1.toNat ≤ 3 →
      ∃ t u, exec .chunkEncode s = .next t ∧ exec .chunkDecode { t with arg0 := t.ret0 } = .next u ∧
        u.result = .passed ∧ u.ret0 = s.arg1 ∧ u.ret1 = BitVec.ofNat 32 (s.arg0.toNat % 256)) ∧
    (s.arg0.toNat ≤ 1023 →
      ∃ t u, exec .chunkToWire s = .next t ∧
        exec .chunkFromWire { t with arg0 := t.ret0, arg1 := t.ret1 } = .next u ∧
        u.result = .passed ∧ u.ret0 = s.arg0)

/-! ### ScalarCodec commands -/

/-- R110 (with R107 to R109): SCALAR_TOBYTES stores the low-order bytes of the value, least significant first, writes RET0
with the width, and stores nothing when it does not finish Passed. -/
def Obligations.ScalarToBytes : Prop :=
  ∀ s : State,
    (¬ InRange s.arg3 s.params.bwmSize ∨ 11 < s.arg0.toNat →
      exec .scalarToBytes s = .next { s with result := .failed }) ∧
    (InRange s.arg3 s.params.bwmSize → s.arg0.toNat = 11 →
      exec .scalarToBytes s = .next { s with result := .bypassed }) ∧
    (InRange s.arg3 s.params.bwmSize → s.arg0.toNat < 11 → rangeLen s.arg3 < widthOfTag s.arg0.toNat →
      exec .scalarToBytes s = .next { s with result := .failed }) ∧
    (InRange s.arg3 s.params.bwmSize → s.arg0.toNat < 11 → widthOfTag s.arg0.toNat ≤ rangeLen s.arg3 →
      ∃ m, exec .scalarToBytes s = .next
          { s with result := .passed, bwm := m, ret0 := BitVec.ofNat 32 (widthOfTag s.arg0.toNat) } ∧
        Stored s.bwm m (rangeAddr s.arg3)
          ((List.range (widthOfTag s.arg0.toNat)).map fun i =>
            BitVec.ofNat 8
              ((if s.arg0.toNat = 0 then (if s.arg1 = 0 ∧ s.arg2 = 0 then 0 else 1)
                else s.arg2.toNat * 2 ^ 32 + s.arg1.toNat) / 256 ^ i)))

/-- R111 (with R107 to R109): SCALAR_TODATA returns the value of the bytes, sign- or zero-extended to 64 bits, and
changes no memory; a Bool byte above 1 fails. -/
def Obligations.ScalarToData : Prop :=
  ∀ s : State,
    (¬ InRange s.arg3 s.params.bwmSize ∨ 11 < s.arg0.toNat →
      exec .scalarToData s = .next { s with result := .failed }) ∧
    (InRange s.arg3 s.params.bwmSize → s.arg0.toNat = 11 →
      exec .scalarToData s = .next { s with result := .bypassed }) ∧
    (InRange s.arg3 s.params.bwmSize → s.arg0.toNat < 11 → rangeLen s.arg3 < widthOfTag s.arg0.toNat →
      exec .scalarToData s = .next { s with result := .failed }) ∧
    (InRange s.arg3 s.params.bwmSize → s.arg0.toNat < 11 → widthOfTag s.arg0.toNat ≤ rangeLen s.arg3 →
      ∀ B : List Byte, B.length = widthOfTag s.arg0.toNat → Holds s.bwm (rangeAddr s.arg3) B →
        exec .scalarToData s =
          if s.arg0.toNat = 0 ∧ 1 < littleEndian B then .next { s with result := .failed }
          else .next
            { s with
              result := .passed
              ret0 := BitVec.ofNat 32 (extended s.arg0.toNat (littleEndian B))
              ret1 := BitVec.ofNat 32 (extended s.arg0.toNat (littleEndian B) / 2 ^ 32) }) ∧
    (InRange s.arg3 s.params.bwmSize → s.arg0.toNat < 11 → widthOfTag s.arg0.toNat ≤ rangeLen s.arg3 →
      (∃ i < widthOfTag s.arg0.toNat, s.bwm.read (rangeAddr s.arg3 + i) = none) →
        exec .scalarToData s = .fault .uninitRead)

/-- R112: SCALAR_GETARRAYSIZE returns the width of a type, 0 for Text, and fails for what is no type. -/
def Obligations.ScalarGetArraySize : Prop :=
  ∀ s : State,
    (s.arg0.toNat ≤ 11 →
      exec .scalarGetArraySize s = .next
        { s with result := .passed, ret0 := BitVec.ofNat 32 (widthOfTag s.arg0.toNat) }) ∧
    (11 < s.arg0.toNat → exec .scalarGetArraySize s = .next { s with result := .failed })

/-- R115: for every tag 0 to 10 and every value representable in that kind, SCALAR_TOBYTES into a range of at least the
width and then SCALAR_TODATA over the same range return the value. -/
def Obligations.ScalarRoundTrip : Prop :=
  ∀ s : State, InRange s.arg3 s.params.bwmSize → s.arg0.toNat < 11 → widthOfTag s.arg0.toNat ≤ rangeLen s.arg3 →
    Representable s.arg0.toNat (s.arg2.toNat * 2 ^ 32 + s.arg1.toNat) →
      ∃ t u, exec .scalarToBytes s = .next t ∧ t.result = .passed ∧ exec .scalarToData t = .next u ∧
        u.result = .passed ∧ u.ret0 = s.arg1 ∧ u.ret1 = s.arg2

/-! ### Packet commands -/

/-- R122: PKT_CREATE reads its segments, refuses a value that is no chunk, and stores Start, the segments and the Check of
their sum; the source is read whole before the destination is written, and an unwritten source cell is UNINIT_READ
(20_memory.md R67). -/
def Obligations.PktCreate : Prop :=
  ∀ s : State,
    (¬ InRange s.arg1 s.params.pwmSize ∨ ¬ InRange s.arg2 s.params.pwmSize ∨ rangeLen s.arg2 < rangeLen s.arg1 + 2 →
      exec .pktCreate s = .next { s with result := .failed }) ∧
    (InRange s.arg1 s.params.pwmSize → InRange s.arg2 s.params.pwmSize → rangeLen s.arg1 + 2 ≤ rangeLen s.arg2 →
      ∀ S : List Chunk, S.length = rangeLen s.arg1 → Holds s.pwm (rangeAddr s.arg1) S →
        ((∃ c ∈ S, 1023 < c.toNat) → exec .pktCreate s = .next { s with result := .crashed }) ∧
        ((∀ c ∈ S, c.toNat ≤ 1023) →
          ∃ m, exec .pktCreate s = .next
              { s with result := .passed, pwm := m, ret0 := BitVec.ofNat 32 (rangeLen s.arg1 + 2) } ∧
            Stored s.pwm m (rangeAddr s.arg2) (planeOf (BitVec.ofNat 8 s.arg0.toNat) S))) ∧
    (InRange s.arg1 s.params.pwmSize → InRange s.arg2 s.params.pwmSize → rangeLen s.arg1 + 2 ≤ rangeLen s.arg2 →
      (∃ i < rangeLen s.arg1, s.pwm.read (rangeAddr s.arg1 + i) = none) → exec .pktCreate s = .fault .uninitRead)

/-- R123: PKT_APPEND stores the cells of both ranges end to end, unchecked; an unwritten cell of either is UNINIT_READ
(20_memory.md R67). -/
def Obligations.PktAppend : Prop :=
  ∀ s : State,
    (¬ InRange s.arg0 s.params.pwmSize ∨ ¬ InRange s.arg1 s.params.pwmSize ∨ ¬ InRange s.arg2 s.params.pwmSize ∨
        rangeLen s.arg2 < rangeLen s.arg0 + rangeLen s.arg1 →
      exec .pktAppend s = .next { s with result := .failed }) ∧
    (InRange s.arg0 s.params.pwmSize → InRange s.arg1 s.params.pwmSize → InRange s.arg2 s.params.pwmSize →
      rangeLen s.arg0 + rangeLen s.arg1 ≤ rangeLen s.arg2 →
      ∀ A B : List Chunk, A.length = rangeLen s.arg0 → B.length = rangeLen s.arg1 →
        Holds s.pwm (rangeAddr s.arg0) A → Holds s.pwm (rangeAddr s.arg1) B →
          ∃ m, exec .pktAppend s = .next
              { s with
                result := .passed
                pwm := m
                ret0 := BitVec.ofNat 32 (rangeLen s.arg0 + rangeLen s.arg1) } ∧
            Stored s.pwm m (rangeAddr s.arg2) (A ++ B)) ∧
    (InRange s.arg0 s.params.pwmSize → InRange s.arg1 s.params.pwmSize → InRange s.arg2 s.params.pwmSize →
      rangeLen s.arg0 + rangeLen s.arg1 ≤ rangeLen s.arg2 →
      (∃ i < rangeLen s.arg0, s.pwm.read (rangeAddr s.arg0 + i) = none) ∨
          (∃ i < rangeLen s.arg1, s.pwm.read (rangeAddr s.arg1 + i) = none) →
        exec .pktAppend s = .fault .uninitRead)

/-- R124: PKT_SEGFROMBYTES stores a Div chunk and one Byte chunk for each byte of BWM; an unwritten byte is UNINIT_READ
(20_memory.md R67). -/
def Obligations.PktSegFromBytes : Prop :=
  ∀ s : State,
    (¬ InRange s.arg0 s.params.bwmSize ∨ ¬ InRange s.arg1 s.params.pwmSize ∨ rangeLen s.arg1 < rangeLen s.arg0 + 1 →
      exec .pktSegFromBytes s = .next { s with result := .failed }) ∧
    (InRange s.arg0 s.params.bwmSize → InRange s.arg1 s.params.pwmSize → rangeLen s.arg0 + 1 ≤ rangeLen s.arg1 →
      ∀ B : List Byte, B.length = rangeLen s.arg0 → Holds s.bwm (rangeAddr s.arg0) B →
        ∃ m, exec .pktSegFromBytes s = .next
            { s with result := .passed, pwm := m, ret0 := BitVec.ofNat 32 (rangeLen s.arg0 + 1) } ∧
          Stored s.pwm m (rangeAddr s.arg1) (segmentOf s.params.divPayload B)) ∧
    (InRange s.arg0 s.params.bwmSize → InRange s.arg1 s.params.pwmSize → rangeLen s.arg0 + 1 ≤ rangeLen s.arg1 →
      (∃ i < rangeLen s.arg0, s.bwm.read (rangeAddr s.arg0 + i) = none) → exec .pktSegFromBytes s = .fault .uninitRead)

/-- R125, R126, R128 over a range the scan of R118 takes as a plane: PKT_VERIFYCHECKSUM compares the sum of the payloads
with the Check, PKT_GETTOTALSIZE returns the size, PKT_GETPARAMCOUNT the number of Div chunks. No cell is written and no
cell after the Check is read. -/
def Obligations.CommandsOverAPlane : Prop :=
  ∀ (s : State) (first : Chunk) (mid : List Chunk) (last : Chunk), ScansAs s s.arg0 first mid last →
    exec .pktVerifyCheckSum s =
      (if sum8 mid = last.toNat % 256 then
        .next { s with result := .passed, ret0 := BitVec.ofNat 32 (mid.length + 2) }
      else .next { s with result := .failed }) ∧
    exec .pktGetTotalSize s = .next { s with result := .passed, ret0 := BitVec.ofNat 32 (mid.length + 2) } ∧
    exec .pktGetParamCount s = .next
      { s with
        result := .passed
        ret0 := BitVec.ofNat 32 (mid.filter fun c => 256 ≤ c.toNat && c.toNat < 512).length }

/-- R118, R134, with R67, R69, R120, R125, R126, R128, R130, R131 and R208 for the commands that scan: every command that
scans for a plane finishes Failed on a bad range, and Incompatibility or Crashed, as the scan does, on a range that holds
none; it changes nothing but RESULT. An unwritten cell that the scan meets is UNINIT_READ. PKT_GETPARAMETER tests its
destination range first (PktGetParameter). -/
def Obligations.ScanFailures : Prop :=
  ∀ (s : State) (i : Instr),
    (i = .pktVerifyCheckSum ∨ i = .pktGetTotalSize ∨ i = .pktGetParamCount ∨ i = .pktFullyAnalyze ∨
      (i = .pktGetParameter ∧ InRange s.arg2 s.params.bwmSize) ∨ i = .gateDock) →
    (¬ InRange s.arg0 s.params.pwmSize → exec i s = .next { s with result := .failed }) ∧
    (∀ code, ScanFails s s.arg0 code → exec i s = .next { s with result := code }) ∧
    (ScanMeetsUnwritten s s.arg0 → exec i s = .fault .uninitRead)

/-- R127: PKT_VERIFYID reads the first cell alone and looks its ID up in SUPPORTED; an unwritten first cell is UNINIT_READ
(20_memory.md R67). -/
def Obligations.PktVerifyID : Prop :=
  ∀ s : State,
    (¬ InRange s.arg0 s.params.pwmSize → exec .pktVerifyID s = .next { s with result := .failed }) ∧
    (InRange s.arg0 s.params.pwmSize → rangeLen s.arg0 = 0 →
      exec .pktVerifyID s = .next { s with result := .incompatibility }) ∧
    (InRange s.arg0 s.params.pwmSize → 0 < rangeLen s.arg0 →
      ∀ c, s.pwm.read (rangeAddr s.arg0) = some c →
        exec .pktVerifyID s =
          if c.toNat / 256 = 2 ∧ BitVec.ofNat 8 c.toNat ∈ s.params.supported then
            .next { s with result := .passed, ret0 := BitVec.ofNat 32 (c.toNat % 256) }
          else .next { s with result := .incompatibility }) ∧
    (InRange s.arg0 s.params.pwmSize → 0 < rangeLen s.arg0 → s.pwm.read (rangeAddr s.arg0) = none →
      exec .pktVerifyID s = .fault .uninitRead)

/-- R129: PKT_SEGTOBYTES stores the payloads of the chunks after the Div; a first cell that is no Div is Failed, a later
cell that is no Byte chunk is Crashed, and an unwritten cell is UNINIT_READ (R67), whichever of the two the reading meets
first (the model's choice, log 12). -/
def Obligations.PktSegToBytes : Prop :=
  ∀ s : State,
    (¬ InRange s.arg0 s.params.pwmSize ∨ ¬ InRange s.arg1 s.params.bwmSize ∨ rangeLen s.arg0 = 0 →
      exec .pktSegToBytes s = .next { s with result := .failed }) ∧
    (InRange s.arg0 s.params.pwmSize → InRange s.arg1 s.params.bwmSize → 0 < rangeLen s.arg0 →
      s.pwm.read (rangeAddr s.arg0) = none → exec .pktSegToBytes s = .fault .uninitRead) ∧
    (InRange s.arg0 s.params.pwmSize → InRange s.arg1 s.params.bwmSize → 0 < rangeLen s.arg0 →
      ∀ c, s.pwm.read (rangeAddr s.arg0) = some c →
        (c.toNat / 256 ≠ 1 → exec .pktSegToBytes s = .next { s with result := .failed }) ∧
        (c.toNat / 256 = 1 → ∀ (B : List Byte) (bad : Chunk), B.length + 1 < rangeLen s.arg0 → 256 ≤ bad.toNat →
          Holds s.pwm (rangeAddr s.arg0 + 1) (B.map (fun b => BitVec.ofNat 16 b.toNat) ++ [bad]) →
            exec .pktSegToBytes s = .next { s with result := .crashed }) ∧
        (c.toNat / 256 = 1 → ∀ B : List Byte, B.length + 1 < rangeLen s.arg0 →
          Holds s.pwm (rangeAddr s.arg0 + 1) (B.map fun b => BitVec.ofNat 16 b.toNat) →
          s.pwm.read (rangeAddr s.arg0 + 1 + B.length) = none → exec .pktSegToBytes s = .fault .uninitRead) ∧
        (c.toNat / 256 = 1 → ∀ B : List Byte, B.length + 1 = rangeLen s.arg0 →
          Holds s.pwm (rangeAddr s.arg0 + 1) (B.map fun b => BitVec.ofNat 16 b.toNat) →
            (rangeLen s.arg1 < B.length → exec .pktSegToBytes s = .next { s with result := .failed }) ∧
            (B.length ≤ rangeLen s.arg1 →
              ∃ m, exec .pktSegToBytes s = .next
                  { s with result := .passed, bwm := m, ret0 := BitVec.ofNat 32 B.length } ∧
                Stored s.bwm m (rangeAddr s.arg1) B)))

/-- R120, R130 over a range the scan takes as a plane: the checksum is tested first, then the ID, then the structure; a
plane that passes gives its size, its number of Div chunks and its ID. -/
def Obligations.PktFullyAnalyze : Prop :=
  ∀ (s : State) (first : Chunk) (mid : List Chunk) (last : Chunk), ScansAs s s.arg0 first mid last →
    exec .pktFullyAnalyze s =
      if sum8 mid ≠ last.toNat % 256 then .next { s with result := .failed }
      else if BitVec.ofNat 8 first.toNat ∉ s.params.supported then .next { s with result := .incompatibility }
      else if (∃ c ∈ mid, 512 ≤ c.toNat) ∨ mid.head?.any (fun c => c.toNat < 256) = true then
        .next { s with result := .crashed }
      else .next
        { s with
          result := .passed
          ret0 := BitVec.ofNat 32 (mid.length + 2)
          ret1 := BitVec.ofNat 32 (mid.filter fun c => 256 ≤ c.toNat).length
          ret2 := BitVec.ofNat 32 (first.toNat % 256) }

/-- R120, R121, R131: PKT_GETPARAMETER fails on a bad range, ends as the analysis does on a plane with a wrong Check, an
unsupported ID or a bad structure, and otherwise returns the parameter of the index, whatever the Div payloads; it fails
for an index that names none or a destination that is too small. (A range without a plane: ScanFailures.) -/
def Obligations.PktGetParameter : Prop :=
  ∀ s : State,
    (¬ InRange s.arg0 s.params.pwmSize ∨ ¬ InRange s.arg2 s.params.bwmSize →
      exec .pktGetParameter s = .next { s with result := .failed }) ∧
    (InRange s.arg2 s.params.bwmSize →
      ∀ (first : Chunk) (mid : List Chunk) (last : Chunk), ScansAs s s.arg0 first mid last →
        (sum8 mid ≠ last.toNat % 256 → exec .pktGetParameter s = .next { s with result := .failed }) ∧
        (sum8 mid = last.toNat % 256 → BitVec.ofNat 8 first.toNat ∉ s.params.supported →
          exec .pktGetParameter s = .next { s with result := .incompatibility }) ∧
        (sum8 mid = last.toNat % 256 → BitVec.ofNat 8 first.toNat ∈ s.params.supported →
          ((∃ c ∈ mid, 512 ≤ c.toNat) ∨ mid.head?.any (fun c => c.toNat < 256) = true →
            exec .pktGetParameter s = .next { s with result := .crashed }) ∧
          ∀ segments : List (Byte × List Byte), mid = (segments.flatMap fun p => segmentOf p.1 p.2) →
            (segments.length ≤ s.arg1.toNat → exec .pktGetParameter s = .next { s with result := .failed }) ∧
            ∀ div B, segments[s.arg1.toNat]? = some (div, B) →
              (rangeLen s.arg2 < B.length → exec .pktGetParameter s = .next { s with result := .failed }) ∧
              (B.length ≤ rangeLen s.arg2 →
                ∃ m, exec .pktGetParameter s = .next
                    { s with result := .passed, bwm := m, ret0 := BitVec.ofNat 32 B.length } ∧
                  Stored s.bwm m (rangeAddr s.arg2) B)))

/-- R132: where PKT_CREATE finishes Passed on segments without a Check chunk, PKT_VERIFYCHECKSUM over the plane it wrote
finishes Passed with the plane's size. -/
def Obligations.CreatedPlaneVerifies : Prop :=
  ∀ (s t : State) (S : List Chunk) (v : Word), S.length = rangeLen s.arg1 → Holds s.pwm (rangeAddr s.arg1) S →
    (∀ c ∈ S, c.toNat / 256 ≠ 3) → exec .pktCreate s = .next t → t.result = .passed →
    rangeAddr v = rangeAddr s.arg2 → rangeLen v = t.ret0.toNat →
      exec .pktVerifyCheckSum { t with arg0 := v } = .next { t with arg0 := v, result := .passed, ret0 := t.ret0 }

/-- R133: a plane that verifies no longer does when the payload of one chunk between Start and Check is changed and its
type kept, because the sum of its payloads is another. -/
def Obligations.ChangedPayloadFailsChecksum : Prop :=
  ∀ (s s' : State) (first last c c' : Chunk) (before after : List Chunk),
    ScansAs s s.arg0 first (before ++ c :: after) last → ScansAs s' s'.arg0 first (before ++ c' :: after) last →
    (∃ t, exec .pktVerifyCheckSum s = .next t ∧ t.result = .passed) →
    c.toNat / 256 = c'.toNat / 256 → c.toNat % 256 ≠ c'.toNat % 256 →
      sum8 (before ++ c' :: after) ≠ sum8 (before ++ c :: after) ∧
        exec .pktVerifyCheckSum s' = .next { s' with result := .failed }

/-! ### Terminal commands -/

/-- R151, R155: TERM_PUT refuses a duplicate and changes nothing, refuses when the taxiway is full and says so in
`departureStatus`, and otherwise appends the ID. -/
def Obligations.TermPut : Prop :=
  ∀ s : State,
    (BitVec.ofNat 8 s.arg0.toNat ∈ s.tax → exec .termPut s = .next { s with result := .failed }) ∧
    (BitVec.ofNat 8 s.arg0.toNat ∉ s.tax → s.tax.length = s.params.sizeOfDepartureTaxiway →
      exec .termPut s = .next { s with result := .failed, departureStatus := .notEnoughSpace }) ∧
    (BitVec.ofNat 8 s.arg0.toNat ∉ s.tax → s.tax.length ≠ s.params.sizeOfDepartureTaxiway →
      exec .termPut s = .next
        { s with
          result := .passed
          tax := s.tax ++ [BitVec.ofNat 8 s.arg0.toNat]
          departureStatus := .departureAvailable })

/-- R156, R159: TERM_ISONTAXIWAY and TERM_ARRIVALINFO report the taxiway and the arrival state in RET registers. -/
def Obligations.TermReports : Prop :=
  ∀ s : State,
    exec .termIsOnTaxiway s = .next
      { s with result := .passed, ret0 := if BitVec.ofNat 8 s.arg0.toNat ∈ s.tax then 1 else 0 } ∧
    exec .termArrivalInfo s = .next
      { s with
        result := .passed
        ret0 := BitVec.ofNat 32 s.receivingID.toNat
        ret1 := BitVec.ofNat 32 s.arrBuf.length
        ret2 := BitVec.ofNat 32 s.runSum.toNat
        ret3 := (match s.arrState with
          | .idle => 0
          | .receiving => 1
          | .complete => 2) }

/-- R153, R157: TERM_POP takes the oldest ID off the taxiway and no gate is told. For ID 8 `errValid` is kept as well, which
is the model's reading of R157 against R52 (log 20). -/
def Obligations.TermPop : Prop :=
  ∀ s : State,
    (s.tax = [] → exec .termPop s = .next { s with result := .unecessary }) ∧
    ∀ id rest, s.tax = id :: rest →
      exec .termPop s = .next
        { s with
          result := .passed
          ret0 := BitVec.ofNat 32 id.toNat
          tax := rest
          departureStatus := if rest = [] then .initialised else .departureAvailable }

/-- R164: from an empty taxiway, putting one ID more than its capacity, all distinct, fails at the last put and at no
other, and putting a queued ID again fails and leaves the taxiway as it is. -/
def Obligations.TaxiwayCapacity : Prop :=
  (∀ (s : State) (ids : List Byte), s.tax = [] → ids.Nodup → ids.length = s.params.sizeOfDepartureTaxiway + 1 →
    (callEach .termPut (ids.map fun id => BitVec.ofNat 32 id.toNat) s).1 =
        List.replicate s.params.sizeOfDepartureTaxiway .passed ++ [.failed] ∧
      (callEach .termPut (ids.map fun id => BitVec.ofNat 32 id.toNat) s).2.tax = ids.dropLast) ∧
  ∀ (s : State) (id : Byte), id ∈ s.tax →
    callEach .termPut [BitVec.ofNat 32 id.toNat] s =
      ([.failed], { s with arg0 := BitVec.ofNat 32 id.toNat, result := .failed })

/-- R142, R143, R149, R158: a Start chunk begins a plane, in Idle or in the middle of another, which is then dropped and
reported; any other chunk in Idle is reported as a stray and dropped. A value that is no chunk is refused. -/
def Obligations.ArriveStartOrStray : Prop :=
  ∀ s : State,
    (1023 < s.arg0.toNat → exec .termArriveChunk s = .next { s with result := .incompatibility }) ∧
    (s.arg0.toNat / 256 = 2 → s.arrState ≠ .complete →
      exec .termArriveChunk s = .next
        { s with
          result := .passed
          ret0 := 1
          arrState := .receiving
          packetAvailable := false
          arrBuf := [BitVec.ofNat 16 s.arg0.toNat]
          runSum := 0
          receivingID := BitVec.ofNat 8 s.arg0.toNat
          events := if s.arrState = .receiving then s.events ||| BitVec.twoPow 19 3 else s.events }) ∧
    (s.arg0.toNat ≤ 1023 → s.arg0.toNat / 256 ≠ 2 → s.arrState = .idle →
      exec .termArriveChunk s = .next
        { s with result := .passed, ret0 := 0, events := s.events ||| BitVec.twoPow 19 0 })

/-- R144, R145: a Byte or Div chunk while Receiving is added to the running sum; in regular mode it is stored, and the
plane is dropped and reported when the buffer is then full; in reject-incoming mode it is not stored. -/
def Obligations.ArrivePayload : Prop :=
  ∀ s : State, s.arg0.toNat < 512 → s.arrState = .receiving →
    (s.mode = .regular → s.arrBuf.length + 1 ≠ s.params.sizeOfArrivalPlane →
      exec .termArriveChunk s = .next
        { s with
          result := .passed
          ret0 := 1
          arrBuf := s.arrBuf ++ [BitVec.ofNat 16 s.arg0.toNat]
          runSum := s.runSum + BitVec.ofNat 8 s.arg0.toNat }) ∧
    (s.mode = .regular → s.arrBuf.length + 1 = s.params.sizeOfArrivalPlane →
      exec .termArriveChunk s = .next
        { s with
          result := .passed
          ret0 := 0
          arrState := .idle
          arrBuf := []
          runSum := 0
          arrivalStatus := .notEnoughSpace
          events := s.events ||| BitVec.twoPow 19 2 }) ∧
    (s.mode = .rejectIncoming →
      exec .termArriveChunk s = .next
        { s with result := .passed, ret0 := 1, runSum := s.runSum + BitVec.ofNat 8 s.arg0.toNat })

/-- R146, R147, R158, R162, R196: a Check chunk while Receiving completes the plane when it matches the running sum, and
drops it otherwise; in reject-incoming mode the plane is dropped either way. With AUTO_DOCK = 0 the completed plane is held
in the terminal; with AUTO_DOCK = 1 it is taken, so that the terminal is Idle, and docked as GATE_DOCK docks the same plane
from a PWM that holds it. -/
def Obligations.ArriveCheck : Prop :=
  ∀ s : State, s.arg0.toNat / 256 = 3 → s.arrState = .receiving →
    (s.mode = .regular → s.autoDock = false → s.arg0.toNat % 256 = s.runSum.toNat →
      exec .termArriveChunk s = .next
        { s with
          result := .passed
          ret0 := 2
          arrState := .complete
          packetAvailable := true
          arrBuf := s.arrBuf ++ [BitVec.ofNat 16 s.arg0.toNat]
          arrivalStatus := .arrivalReady
          events := s.events ||| BitVec.twoPow 19 14 }) ∧
    (s.mode = .regular → s.autoDock = true → s.arg0.toNat % 256 = s.runSum.toNat →
      (∃ t, exec .termArriveChunk s = .next t ∧ t.result = .passed ∧ t.ret0 = 0 ∧ t.arrState = .idle ∧
        t.packetAvailable = false ∧ t.arrBuf = [] ∧ t.runSum = 0 ∧ t.arrivalStatus = .initialised ∧
        t.receivingID = s.receivingID ∧ t.events.getLsbD 14 = true ∧ t.bwm = s.bwm ∧ t.pwm = s.pwm) ∧
      ∀ (first : Chunk) (body : List Chunk) (v : Word) (m : Memory 16), s.arrBuf = first :: body →
        ScansAs { s with pwm := m } v first body (BitVec.ofNat 16 s.arg0.toNat) →
          ∃ t, exec .gateDock
              { s with
                arg0 := v
                pwm := m
                arrState := .idle
                packetAvailable := false
                arrBuf := []
                runSum := 0
                arrivalStatus := .initialised
                events := s.events ||| BitVec.twoPow 19 14 } = .next t ∧
            exec .termArriveChunk s = .next { t with arg0 := s.arg0, pwm := s.pwm, result := .passed, ret0 := 0 }) ∧
    (s.arg0.toNat % 256 ≠ s.runSum.toNat →
      exec .termArriveChunk s = .next
        { s with
          result := .passed
          ret0 := 0
          arrState := .idle
          arrBuf := []
          runSum := 0
          events := s.events ||| BitVec.twoPow 19 1 }) ∧
    (s.mode = .rejectIncoming → s.arg0.toNat % 256 = s.runSum.toNat →
      exec .termArriveChunk s = .next
        { s with
          result := .passed
          ret0 := 0
          arrState := .idle
          arrBuf := []
          runSum := 0
          events := s.events ||| BitVec.twoPow 19 5 })

/-- R148: while a plane is held every chunk is dropped and reported. With AUTO_DOCK = 0 the plane stays held. With
AUTO_DOCK = 1 (the host wrote it while the plane was held) the same write takes the held plane, so that the terminal is
Idle, and docks it as GATE_DOCK docks the same plane from a PWM that holds it: the model's reading of R158 and
44_runway.md R175 against the sentences of R148 and 45_gate.md R196 (log 26). -/
def Obligations.ArriveWhileComplete : Prop :=
  ∀ s : State, s.arg0.toNat ≤ 1023 → s.arrState = .complete →
    (s.autoDock = false →
      exec .termArriveChunk s = .next
        { s with
          result := .passed
          ret0 := 2
          arrivalStatus := .overflowing
          events := s.events ||| BitVec.twoPow 19 4 }) ∧
    (s.autoDock = true →
      (∃ t, exec .termArriveChunk s = .next t ∧ t.result = .passed ∧ t.ret0 = 0 ∧ t.arrState = .idle ∧
        t.packetAvailable = false ∧ t.arrBuf = [] ∧ t.runSum = 0 ∧ t.arrivalStatus = .initialised ∧
        t.receivingID = s.receivingID ∧ t.events.getLsbD 4 = true ∧ t.bwm = s.bwm ∧ t.pwm = s.pwm) ∧
      ∀ (first : Chunk) (body : List Chunk) (last : Chunk) (v : Word) (m : Memory 16),
        s.arrBuf = first :: (body ++ [last]) → ScansAs { s with pwm := m } v first body last →
          ∃ t, exec .gateDock
              { s with
                arg0 := v
                pwm := m
                arrState := .idle
                packetAvailable := false
                arrBuf := []
                runSum := 0
                arrivalStatus := .initialised
                events := s.events ||| BitVec.twoPow 19 4 } = .next t ∧
            exec .termArriveChunk s = .next { t with arg0 := s.arg0, pwm := s.pwm, result := .passed, ret0 := 0 })

/-- R163: feeding a well-formed plane that fits the arrival buffer, chunk by chunk, in regular mode, from Idle, makes
`packetAvailable` 1 at the Check chunk and at no earlier one; the buffer then holds the plane and `receivingID` its ID.
AUTO_DOCK is 0, so that the plane stays in the terminal. -/
def Obligations.FeedingAPlaneCompletesIt : Prop :=
  ∀ (s : State) (id : Byte) (body : List Chunk),
    s.mode = .regular → s.autoDock = false → s.arrState = .idle → (∀ c ∈ body, c.toNat < 512) →
    body.length + 2 ≤ s.params.sizeOfArrivalPlane →
    availableAfterEach .termArriveChunk ((planeOf id body).map fun c => BitVec.ofNat 32 c.toNat) s =
        List.replicate (body.length + 1) false ++ [true] ∧
      (callEach .termArriveChunk ((planeOf id body).map fun c => BitVec.ofNat 32 c.toNat) s).2.receivingID = id ∧
      (callEach .termArriveChunk ((planeOf id body).map fun c => BitVec.ofNat 32 c.toNat) s).2.arrBuf = planeOf id body

/-- R160, R162: TERM_TAKEARRIVAL stores the held plane in PWM and empties the terminal; without a plane, or with too small
a destination, it changes nothing but RESULT. -/
def Obligations.TermTakeArrival : Prop :=
  ∀ s : State,
    (¬ InRange s.arg0 s.params.pwmSize → exec .termTakeArrival s = .next { s with result := .failed }) ∧
    (InRange s.arg0 s.params.pwmSize → s.arrState ≠ .complete →
      exec .termTakeArrival s = .next { s with result := .bypassed }) ∧
    (InRange s.arg0 s.params.pwmSize → s.arrState = .complete → rangeLen s.arg0 < s.arrBuf.length →
      exec .termTakeArrival s = .next { s with result := .failed }) ∧
    (InRange s.arg0 s.params.pwmSize → s.arrState = .complete → s.arrBuf.length ≤ rangeLen s.arg0 →
      ∀ first rest, s.arrBuf = first :: rest →
        ∃ m, exec .termTakeArrival s = .next
            { s with
              result := .passed
              pwm := m
              ret0 := BitVec.ofNat 32 s.arrBuf.length
              ret1 := BitVec.ofNat 32 (first.toNat % 256)
              arrState := .idle
              packetAvailable := false
              arrBuf := []
              runSum := 0
              arrivalStatus := .initialised } ∧
          Stored s.pwm m (rangeAddr s.arg0) s.arrBuf)

/-- R161, R56: TERM_RESET resets the arrival state, the taxiway and `errValid`, and keeps everything else. -/
def Obligations.TermReset : Prop :=
  ∀ s : State,
    exec .termReset s = .next
      { s with
        result := .passed
        arrState := .idle
        packetAvailable := false
        arrBuf := []
        runSum := 0
        receivingID := 0
        arrivalStatus := .initialised
        tax := []
        departureStatus := .initialised
        errValid := false }

/-! ### Gate commands -/

/-- R201 to R203: GATE_REQUEST of a Cleaned gate on a Master, with records of the gate's parameters that make a plane
within its size, puts the gate's ID on the taxiway and the plane into the gate. -/
def Obligations.GateRequestAccepted : Prop :=
  ∀ (s : State) (g : Gate) (L : List (List Byte)),
    DistinctGates s → g ∈ s.gates → s.arg0.toNat = g.conf.gateID.toNat → s.params.role = .master →
    g.conf.gateID ≠ 8 → g.status = .cleaned → RecordsAt s s.arg1 L → ParamsOK L g.conf.departTypes →
    (planeWith g.conf.gateID s.params.divPayload L).length ≤ g.conf.maxSizeOfPlane → TaxiwayTakes s g.conf.gateID →
      exec .gateRequest s = .next
        { s with
          result := .passed
          ret0 := BitVec.ofNat 32 (planeWith g.conf.gateID s.params.divPayload L).length
          tax := s.tax ++ [g.conf.gateID]
          departureStatus := .departureAvailable
          gates := gatesWith s g.conf.gateID fun h =>
            { h with
              depPlane := planeWith g.conf.gateID s.params.divPayload L
              timer := 0
              status := .readyForDeparture
              lastResult := .passed } }

/-- R201: the cases in which GATE_REQUEST refuses, in the order it tests them; it changes nothing but RESULT, except that
a full taxiway sets `departureStatus`. -/
def Obligations.GateRequestRefused : Prop :=
  ∀ s : State,
    (¬ InRange s.arg1 s.params.bwmSize → exec .gateRequest s = .next { s with result := .failed }) ∧
    (InRange s.arg1 s.params.bwmSize → NamesNoGate s s.arg0 →
      exec .gateRequest s = .next { s with result := .incompatibility }) ∧
    ∀ g, DistinctGates s → g ∈ s.gates → s.arg0.toNat = g.conf.gateID.toNat → InRange s.arg1 s.params.bwmSize →
      (s.params.role = .slave ∨ g.conf.gateID = 8 ∨ g.status ≠ .cleaned →
        exec .gateRequest s = .next { s with result := .failed }) ∧
      (s.params.role = .master → g.conf.gateID ≠ 8 → g.status = .cleaned →
        (∀ (L : List (List Byte)) (k : Byte), (∀ B ∈ L, B.length ≤ 255) →
          Holds s.bwm (rangeAddr s.arg1) (recordBytes L ++ [k]) →
          (recordBytes L).length < rangeLen s.arg1 → rangeLen s.arg1 < (recordBytes L).length + 1 + k.toNat →
            exec .gateRequest s = .next { s with result := .failed }) ∧
        ∀ L, RecordsAt s s.arg1 L →
          (¬ ParamsOK L g.conf.departTypes ∨
              g.conf.maxSizeOfPlane < (planeWith g.conf.gateID s.params.divPayload L).length →
            exec .gateRequest s = .next { s with result := .failed }) ∧
          (ParamsOK L g.conf.departTypes →
            (planeWith g.conf.gateID s.params.divPayload L).length ≤ g.conf.maxSizeOfPlane →
            (g.conf.gateID ∈ s.tax → exec .gateRequest s = .next { s with result := .failed }) ∧
            (g.conf.gateID ∉ s.tax → s.tax.length = s.params.sizeOfDepartureTaxiway →
              exec .gateRequest s = .next { s with result := .failed, departureStatus := .notEnoughSpace })))

/-- R206: GATE_READ stores the records of a gate's answer and makes the gate Cleaned; a gate without an answer is
Bypassed, and every refusal changes nothing but RESULT. A docked parameter has at most 255 bytes (R195; the invariant's
`Gate.OK`), so each record's length byte is the parameter's length. -/
def Obligations.GateRead : Prop :=
  ∀ s : State,
    (¬ InRange s.arg1 s.params.bwmSize → exec .gateRead s = .next { s with result := .failed }) ∧
    (InRange s.arg1 s.params.bwmSize → NamesNoGate s s.arg0 →
      exec .gateRead s = .next { s with result := .incompatibility }) ∧
    ∀ g, DistinctGates s → g ∈ s.gates → s.arg0.toNat = g.conf.gateID.toNat → InRange s.arg1 s.params.bwmSize →
      (g.status ≠ .availableArrival → exec .gateRead s = .next { s with result := .bypassed }) ∧
      (g.status = .availableArrival → rangeLen s.arg1 < (recordBytes g.arrParams).length →
        exec .gateRead s = .next { s with result := .failed }) ∧
      (g.status = .availableArrival → (∀ B ∈ g.arrParams, B.length ≤ 255) →
        (recordBytes g.arrParams).length ≤ rangeLen s.arg1 →
        ∃ m, exec .gateRead s = .next
            { s with
              result := .passed
              bwm := m
              ret0 := BitVec.ofNat 32 (recordBytes g.arrParams).length
              ret1 := BitVec.ofNat 32 g.arrParams.length
              gates := gatesWith s g.conf.gateID fun h => { h with status := .cleaned } } ∧
          Stored s.bwm m (rangeAddr s.arg1) (recordBytes g.arrParams))

/-- R207, R49, R229: GATE_STATUS reports a gate's status, last result, timer and timeout. -/
def Obligations.GateStatus : Prop :=
  ∀ s : State,
    (NamesNoGate s s.arg0 → exec .gateStatus s = .next { s with result := .incompatibility }) ∧
    ∀ g, DistinctGates s → g ∈ s.gates → s.arg0.toNat = g.conf.gateID.toNat →
      exec .gateStatus s = .next
        { s with
          result := .passed
          ret0 := (match g.status with
            | .cleaned => 0
            | .readyForDeparture => 1
            | .awaitingArrival => 2
            | .justLeft => 3
            | .availableArrival => 4)
          ret1 := (match g.lastResult with
            | .passed => 0
            | .crashed => 1
            | .failed => 2
            | .noConnection => 3
            | .incompatibility => 4
            | .bypassed => 5
            | .unecessary => 6)
          ret2 := g.timer
          ret3 := g.conf.arrivalTimeOutMS }

/-- R197, R199, R200, R208: GATE_DOCK on a Master of a plane that its gate waits for stores the parameters in the gate,
whatever the Div payloads; one its gate does not wait for is dropped and reported. That a command moves the gate out of
AwaitingArrival is the model's reading of R200 and R208 against R217 (log 21). -/
def Obligations.GateDockAnswerOnMaster : Prop :=
  ∀ (s : State) (g : Gate) (segments : List (Byte × List Byte)) (L : List (List Byte)),
    DistinctGates s → g ∈ s.gates → s.params.role = .master → g.conf.gateID ≠ 8 →
    g.conf.gateID ∈ s.params.supported → L = segments.map (·.2) →
    PlaneAt s s.arg0 g.conf.gateID (segments.flatMap fun p => segmentOf p.1 p.2) →
    (segments.flatMap fun p => segmentOf p.1 p.2).length + 2 ≤ g.conf.maxSizeOfPlane →
    ParamsOK L g.conf.arriveTypes →
    (g.status = .awaitingArrival →
      exec .gateDock s = .next
        { s with
          result := .passed
          gates := gatesWith s g.conf.gateID fun h =>
            { h with arrParams := L, status := .availableArrival, lastResult := .passed }
          events := s.events ||| BitVec.twoPow 19 13 }) ∧
    (g.status ≠ .awaitingArrival →
      exec .gateDock s = .next { s with result := .unecessary, events := s.events ||| BitVec.twoPow 19 11 })

/-- R204, R205, R216, with R195, R202 and R211: GATE_DOCK on a Slave of a request its gate accepts. A busy gate keeps its
state and an error plane is due. A Cleaned gate stores the parameters; it queues the plane of the answer, or none when
there is no answer, or fails and reports it when the answer is too long or of the wrong kinds, when its ID is queued, and
when the taxiway is full (which `departureStatus` then says). Gate 0 (Ping) and every gate of an echoing block answer with
the parameters of the request. -/
def Obligations.GateDockRequestOnSlave : Prop :=
  ∀ (s : State) (g : Gate) (segments : List (Byte × List Byte)) (L : List (List Byte))
    (answer : Option (List (List Byte))),
    DistinctGates s → g ∈ s.gates → g.conf.gateID ≠ 8 → s.params.role = .slave → g.conf.gateID ∈ s.params.supported →
    L = segments.map (·.2) → PlaneAt s s.arg0 g.conf.gateID (segments.flatMap fun p => segmentOf p.1 p.2) →
    (segments.flatMap fun p => segmentOf p.1 p.2).length + 2 ≤ g.conf.maxSizeOfPlane →
    ParamsOK L g.conf.arriveTypes → AnswersWith s.params g.conf.gateID L answer →
    (g.status ≠ .cleaned → exec .gateDock s = .next { afterErrorPlane s 2 with result := .failed }) ∧
    (g.status = .cleaned → answer = none →
      exec .gateDock s = .next
        { s with result := .passed, gates := gatesWith s g.conf.gateID fun h => { h with arrParams := L } }) ∧
    ∀ A, g.status = .cleaned → answer = some A →
      (g.conf.maxSizeOfPlane < (planeWith g.conf.gateID s.params.divPayload A).length ∨
          ¬ ParamsOK A g.conf.departTypes ∨ g.conf.gateID ∈ s.tax →
        exec .gateDock s = .next
          { s with
            result := .failed
            gates := gatesWith s g.conf.gateID fun h => { h with arrParams := L, lastResult := .failed }
            events := s.events ||| BitVec.twoPow 19 8 }) ∧
      ((planeWith g.conf.gateID s.params.divPayload A).length ≤ g.conf.maxSizeOfPlane →
        ParamsOK A g.conf.departTypes →
        (g.conf.gateID ∉ s.tax → s.tax.length = s.params.sizeOfDepartureTaxiway →
          exec .gateDock s = .next
            { s with
              result := .failed
              departureStatus := .notEnoughSpace
              gates := gatesWith s g.conf.gateID fun h => { h with arrParams := L, lastResult := .failed }
              events := s.events ||| BitVec.twoPow 19 8 }) ∧
        (TaxiwayTakes s g.conf.gateID →
          exec .gateDock s = .next
            { s with
              result := .passed
              tax := s.tax ++ [g.conf.gateID]
              departureStatus := .departureAvailable
              gates := gatesWith s g.conf.gateID fun h =>
                { h with
                  arrParams := L
                  depPlane := planeWith g.conf.gateID s.params.divPayload A
                  timer := 0
                  status := .readyForDeparture
                  lastResult := .passed }
              events := s.events ||| BitVec.twoPow 19 17 }))

/-- R197, R210, R211 over a plane of an ID other than 8: what the dock answers with an error plane, in the order it tests:
no gate, then a Check that does not match, an unsupported ID, a bad structure, a plane too long, and parameters of the
wrong kinds. No gate changes. -/
def Obligations.GateDockRefused : Prop :=
  ∀ (s : State) (first : Chunk) (mid : List Chunk) (last : Chunk), ScansAs s s.arg0 first mid last →
    BitVec.ofNat 8 first.toNat ≠ 8#8 →
    ((∀ g ∈ s.gates, g.conf.gateID ≠ BitVec.ofNat 8 first.toNat) →
      exec .gateDock s = .next { afterErrorPlane s 4 with result := .incompatibility }) ∧
    ∀ g, DistinctGates s → g ∈ s.gates → g.conf.gateID = BitVec.ofNat 8 first.toNat →
      (sum8 mid ≠ last.toNat % 256 → exec .gateDock s = .next { afterErrorPlane s 2 with result := .failed }) ∧
      (sum8 mid = last.toNat % 256 →
        (g.conf.gateID ∉ s.params.supported →
          exec .gateDock s = .next { afterErrorPlane s 4 with result := .incompatibility }) ∧
        (g.conf.gateID ∈ s.params.supported →
          ((∃ c ∈ mid, 512 ≤ c.toNat) ∨ mid.head?.any (fun c => c.toNat < 256) = true →
            exec .gateDock s = .next { afterErrorPlane s 1 with result := .crashed }) ∧
          ∀ (segments : List (Byte × List Byte)), mid = (segments.flatMap fun p => segmentOf p.1 p.2) →
            (g.conf.maxSizeOfPlane < mid.length + 2 ∨ ¬ ParamsOK (segments.map (·.2)) g.conf.arriveTypes →
              exec .gateDock s = .next { afterErrorPlane s 2 with result := .failed })))

/-- R198, R212, with R120 and R195: GATE_DOCK of an error plane stores its parameters in gate 8, whatever that gate held,
and answers nothing. An error plane is dropped silently, with the result code of the first test that fails, when its Check
does not match, its ID is not supported, its structure is bad, it is too long for gate 8, or its parameters are of the
wrong kinds. -/
def Obligations.GateDockErrorPlane : Prop :=
  ∀ (s : State) (g : Gate) (mid : List Chunk) (last : Chunk), DistinctGates s → g ∈ s.gates → g.conf.gateID = 8 →
    ScansAs s s.arg0 0x208#16 mid last →
    (sum8 mid ≠ last.toNat % 256 → exec .gateDock s = .next { s with result := .failed }) ∧
    (sum8 mid = last.toNat % 256 → 8 ∉ s.params.supported →
      exec .gateDock s = .next { s with result := .incompatibility }) ∧
    (sum8 mid = last.toNat % 256 → 8 ∈ s.params.supported →
      ((∃ c ∈ mid, 512 ≤ c.toNat) ∨ mid.head?.any (fun c => c.toNat < 256) = true →
        exec .gateDock s = .next { s with result := .crashed }) ∧
      ∀ segments : List (Byte × List Byte), mid = (segments.flatMap fun p => segmentOf p.1 p.2) →
        (g.conf.maxSizeOfPlane < mid.length + 2 ∨ ¬ ParamsOK (segments.map (·.2)) g.conf.arriveTypes →
          exec .gateDock s = .next { s with result := .failed }) ∧
        (mid.length + 2 ≤ g.conf.maxSizeOfPlane → ParamsOK (segments.map (·.2)) g.conf.arriveTypes →
          exec .gateDock s = .next
            { s with
              result := .passed
              gates := gatesWith s 8 fun h =>
                { h with arrParams := segments.map (·.2), status := .availableArrival, lastResult := .passed }
              events := s.events ||| BitVec.twoPow 19 16 }))

/-- R217 as far as it holds (log 21): no command moves a gate out of ReadyForDeparture or JustLeft, and a command moves a
gate out of AwaitingArrival only by docking its answer, on a Master, and reports ANSWER_AVAILABLE. -/
def Obligations.NoCommandAbandonsARequest : Prop :=
  ∀ (s t : State) (i : Instr), s.Inv → exec i s = .next t →
    ∀ (k : Nat) (g : Gate), s.gates[k]? = some g →
      (g.status = .readyForDeparture ∨ g.status = .justLeft →
        ∃ h, t.gates[k]? = some h ∧ h.status = g.status ∧ h.depPlane = g.depPlane ∧ h.timer = g.timer) ∧
      (g.status = .awaitingArrival →
        ∃ h, t.gates[k]? = some h ∧
          (h = g ∨ (h.status = .availableArrival ∧ h.lastResult = .passed ∧ (i = .gateDock ∨ i = .termArriveChunk) ∧
            s.params.role = .master ∧ t.events.getLsbD 13 = true)))

/-! ### The tick and the link -/

/-- R172: a tick writes no ARG, RET or RESULT register, no control register and no memory, and clears no EVENTS bit. -/
def Obligations.TickKeepsHostState : Prop :=
  ∀ (s t : State) (rest : List Input), s.inputs = .tick :: rest → step s = .next t →
    t.arg0 = s.arg0 ∧ t.arg1 = s.arg1 ∧ t.arg2 = s.arg2 ∧ t.arg3 = s.arg3 ∧ t.result = s.result ∧
      t.ret0 = s.ret0 ∧ t.ret1 = s.ret1 ∧ t.ret2 = s.ret2 ∧ t.ret3 = s.ret3 ∧ t.enable = s.enable ∧
      t.mode = s.mode ∧ t.autoDock = s.autoDock ∧ t.irqEnable = s.irqEnable ∧ t.bwm = s.bwm ∧ t.pwm = s.pwm ∧
      s.events &&& t.events = s.events

/-- R171, R173, R182, R183, R220: every tick updates every gate. A tick while ENABLE = 0 or the link is down does nothing
else but set the status Stopped or Closed and count. In a live tick with nothing received (a tick with bytes: ReceivedBytes)
the timer of every waiting gate counts. A gate ends as its update leaves it when it does not wait for the runway (gate IDs
being distinct), and when the runway does not handle it in this tick: it neither owns the plane being sent nor has its ID at
the head of the taxiway while none is. GATE_TIMEOUT is reported exactly when a gate times out. -/
def Obligations.TickUpdatesEveryGate : Prop :=
  ∀ s : State,
    (s.enable = false ∨ s.linkUp = false →
      (∃ gates, tick s =
        { s with
          rejectedThisTick := false
          gates := gates
          events := if ∃ g ∈ s.gates, TimesOut s g then s.events ||| BitVec.twoPow 19 12 else s.events
          hwStatus := if s.enable = false then .stopped else .closed
          tickCount := s.tickCount + 1 }) ∧
      ∀ (k : Nat) (g : Gate), s.gates[k]? = some g → ∃ h, (tick s).gates[k]? = some h ∧ Updated s g h) ∧
    (s.enable = true → s.linkUp = true → s.rxFifo = [] →
      ((tick s).events.getLsbD 12 = true ↔ s.events.getLsbD 12 = true ∨ ∃ g ∈ s.gates, TimesOut s g) ∧
      ∀ (k : Nat) (g : Gate), s.gates[k]? = some g →
        ∃ h, (tick s).gates[k]? = some h ∧ h.conf = g.conf ∧
          (g.status = .readyForDeparture ∨ g.status = .justLeft ∨ g.status = .awaitingArrival →
            h.timer = BitVec.ofNat 32 (timeCounted s g)) ∧
          (g.status = .cleaned ∨ g.status = .availableArrival → h.timer = g.timer) ∧
          (DistinctGates s → g.status ≠ .readyForDeparture → g.status ≠ .justLeft → Updated s g h) ∧
          (¬ (s.sending = true ∧ s.txOwner = .gate g.conf.gateID) →
            ¬ (s.sending = false ∧ s.tax.head? = some g.conf.gateID) → Updated s g h))

/-- R184 (its first sentence), R173, R80, R186: a tick appends at most two bytes to `txQueue`, behind those already there,
and none when it is not live. A live tick that starts with no plane being sent, an empty taxiway and no byte received appends
none: it changes the gates, EVENTS, the highway status and TICK_COUNT alone. (R186 does not name the received bytes; that it
speaks of a tick whose receive phase queues nothing is the model's reading, log 22.) -/
def Obligations.TickBandwidth : Prop :=
  ∀ s : State,
    (∃ bytes, (tick s).txQueue = s.txQueue ++ bytes ∧ bytes.length ≤ 2 ∧
      (s.enable = false ∨ s.linkUp = false → bytes = [])) ∧
    (s.enable = true → s.linkUp = true → s.sending = false → s.tax = [] → s.rxFifo = [] →
      ∃ gates events status, tick s =
        { s with
          rejectedThisTick := false
          gates := gates
          events := events
          hwStatus := status
          tickCount := s.tickCount + 1 })

/-- R171, R182: the highway status after a tick is computed from the state the tick leaves, by the first matching line,
and TICK_COUNT counts the tick. -/
def Obligations.HighwayStatusAfterTick : Prop :=
  ∀ s : State,
    (tick s).hwStatus =
        (if s.enable = false then .stopped
        else if s.linkUp = false then .closed
        else if (tick s).rejectedThisTick = true then .error
        else if (tick s).tax.length = s.params.sizeOfDepartureTaxiway then .jammed
        else if (tick s).sending = true ∨ (tick s).tax ≠ [] then .traffic
        else .empty) ∧
      (tick s).tickCount = s.tickCount + 1

/-- R178, R179, R180, R188: a live tick with nothing received, no plane being sent and an ID at the head of the taxiway
takes the ID. A gate that is ReadyForDeparture has its plane copied, its first chunk sent and is JustLeft; ID 8 sends the
error plane and frees its slot. A plane longer than its gate's or the runway's size is rejected and sends nothing: its gate
is then Cleaned with last result Failed, and the error plane keeps its slot. An ID without a plane is rejected as well. -/
def Obligations.RunwayStartsOrRejects : Prop :=
  ∀ (s : State) (id : Byte) (rest : List Byte), s.enable = true → s.linkUp = true → s.rxFifo = [] →
    s.sending = false → s.tax = id :: rest →
    (id ≠ 8 → ∀ (g : Gate) (c : Chunk) (more : List Chunk), DistinctGates s → g ∈ s.gates → g.conf.gateID = id →
      g.status = .readyForDeparture → g.depPlane = c :: more → more ≠ [] →
      g.depPlane.length ≤ g.conf.maxSizeOfPlane → g.depPlane.length ≤ s.params.runwayBufferSize →
        (tick s).tax = rest ∧ (tick s).sending = true ∧ (tick s).txBuf = g.depPlane ∧ (tick s).txChunk = 1 ∧
          (tick s).txID = id ∧ (tick s).txOwner = .gate id ∧ (tick s).rejectedThisTick = false ∧
          (tick s).txQueue = s.txQueue ++ [BitVec.ofNat 8 (c.toNat / 256), BitVec.ofNat 8 (c.toNat % 256)] ∧
          ∃ h ∈ (tick s).gates, h.conf = g.conf ∧ h.status = .justLeft ∧ h.lastResult = g.lastResult ∧
            h.depPlane = g.depPlane) ∧
    (id = 8 → s.errValid = true → ∀ g, DistinctGates s → g ∈ s.gates → g.conf.gateID = 8 →
      4 ≤ g.conf.maxSizeOfPlane → 4 ≤ s.params.runwayBufferSize →
        (tick s).tax = rest ∧ (tick s).sending = true ∧
          (tick s).txBuf = [s.errPlane.start, s.errPlane.div, s.errPlane.code, s.errPlane.check] ∧
          (tick s).txChunk = 1 ∧ (tick s).txID = 8 ∧ (tick s).txOwner = .errSlot ∧ (tick s).errValid = false ∧
          (tick s).txQueue = s.txQueue ++
            [BitVec.ofNat 8 (s.errPlane.start.toNat / 256), BitVec.ofNat 8 (s.errPlane.start.toNat % 256)]) ∧
    (id ≠ 8 → ∀ g : Gate, DistinctGates s → g ∈ s.gates → g.conf.gateID = id → g.status = .readyForDeparture →
      g.conf.maxSizeOfPlane < g.depPlane.length ∨ s.params.runwayBufferSize < g.depPlane.length →
        (tick s).tax = rest ∧ (tick s).sending = false ∧ (tick s).txQueue = s.txQueue ∧ (tick s).hwStatus = .error ∧
          (tick s).events.getLsbD 8 = true ∧
          ∃ h ∈ (tick s).gates, h.conf = g.conf ∧ h.status = .cleaned ∧ h.lastResult = .failed) ∧
    (id = 8 → s.errValid = true → ∀ g, DistinctGates s → g ∈ s.gates → g.conf.gateID = 8 →
      g.conf.maxSizeOfPlane < 4 ∨ s.params.runwayBufferSize < 4 →
        (tick s).tax = rest ∧ (tick s).sending = false ∧ (tick s).txQueue = s.txQueue ∧ (tick s).hwStatus = .error ∧
          (tick s).events.getLsbD 8 = true ∧ (tick s).errValid = true) ∧
    ((id ≠ 8 ∧ ∀ g ∈ s.gates, g.conf.gateID = id → g.status ≠ .readyForDeparture) ∨ (id = 8 ∧ s.errValid = false) →
      (tick s).tax = rest ∧ (tick s).sending = false ∧ (tick s).txQueue = s.txQueue ∧ (tick s).hwStatus = .error ∧
        (tick s).events.getLsbD 8 = true)

/-- R177, R179, R184, R185: a plane being sent leaves in order, one chunk each live tick, b0 before b1, whatever else its
owner holds by then; the tick that sends its last chunk ends it and reports PLANE_DEPARTED. Nothing is received
meanwhile. -/
def Obligations.PlaneLeavesInOrder : Prop :=
  ∀ s : State, s.enable = true → s.linkUp = true → s.rxFifo = [] → s.sending = true →
    s.txChunk < s.txBuf.length →
      (∀ k, s.txChunk + k < s.txBuf.length → (tick^[k] s).sending = true ∧ (tick^[k] s).txChunk = s.txChunk + k) ∧
      (tick^[s.txBuf.length - s.txChunk] s).sending = false ∧
      (tick^[s.txBuf.length - s.txChunk] s).events.getLsbD 18 = true ∧
      (tick^[s.txBuf.length - s.txChunk] s).txQueue =
        s.txQueue ++ (s.txBuf.drop s.txChunk).flatMap fun c =>
          [BitVec.ofNat 8 (c.toNat / 256), BitVec.ofNat 8 (c.toNat % 256)]

/-- R209, R188: the tick that sends the last chunk of the plane of a gate in JustLeft leaves the gate in AwaitingArrival on
a Master, and Cleaned with last result Passed on a Slave. -/
def Obligations.LastChunkMovesTheGate : Prop :=
  ∀ (s : State) (g : Gate), DistinctGates s → g ∈ s.gates → s.enable = true → s.linkUp = true → s.rxFifo = [] →
    s.sending = true → s.txChunk + 1 = s.txBuf.length → s.txOwner = .gate g.conf.gateID → g.status = .justLeft →
      ∃ h ∈ (tick s).gates, h.conf = g.conf ∧
        (s.params.role = .master → h.status = .awaitingArrival ∧ h.lastResult = g.lastResult) ∧
        (s.params.role = .slave → h.status = .cleaned ∧ h.lastResult = .passed)

/-- R168, R169, R174, R175, with R158 and R196 for the chunk: the link steps, and how a live tick turns received bytes into
chunks. With RX_BYTES_PER_TICK = k a tick does with the oldest k bytes what it does with them alone, and the others wait.
The bytes a tick takes are taken one by one: the first of a pair waits in the latch, a pair whose first byte is above 3 is
dropped and reported, and every other pair does in the tick what TERM_ARRIVECHUNK of its chunk does, the docking of a
completed plane included, but for RESULT and RET0. So a pair that is a Start chunk begins a plane in an Idle terminal. -/
def Obligations.ReceivedBytes : Prop :=
  ∀ s : State,
    (∀ (b : Byte) (rest : List Input), s.inputs = .rxByte b :: rest →
      step s = .next
        (if s.rxFifo.length < s.params.rxFifoDepth then { s with inputs := rest, rxFifo := s.rxFifo ++ [b] }
        else { s with inputs := rest, events := s.events ||| BitVec.twoPow 19 7 })) ∧
    (∀ (b : Byte) (queue : List Byte) (rest : List Input), s.inputs = .txTake :: rest → s.txQueue = b :: queue →
      step s = .next { s with inputs := rest, txQueue := queue }) ∧
    (∀ (up : Bool) (rest : List Input), s.inputs = .setLink up :: rest →
      step s = .next { s with inputs := rest, linkUp := up }) ∧
    (s.enable = true → s.linkUp = true →
      (∀ k, s.params.rxBytesPerTick = some k →
        tick s = { tick { s with rxFifo := s.rxFifo.take k } with rxFifo := s.rxFifo.drop k }) ∧
      ∀ (b : Byte) (more : List Byte), s.rxFifo = b :: more →
        (∀ k, s.params.rxBytesPerTick = some k → more.length < k) →
        (s.rxLatchValid = false → tick s = tick { s with rxFifo := more, rxLatch := b, rxLatchValid := true }) ∧
        (s.rxLatchValid = true → 3 < s.rxLatch.toNat →
          tick s = tick
            { s with rxFifo := more, rxLatchValid := false, events := s.events ||| BitVec.twoPow 19 6 }) ∧
        (s.rxLatchValid = true → s.rxLatch.toNat ≤ 3 →
          ∃ t, exec .termArriveChunk
              { s with
                rxFifo := more
                rxLatchValid := false
                arg0 := BitVec.ofNat 32 (s.rxLatch.toNat * 256 + b.toNat) } = .next t ∧
            tick s = tick { t with arg0 := s.arg0, result := s.result, ret0 := s.ret0 })) ∧
    (s.enable = true → s.linkUp = true → s.params.rxBytesPerTick = none →
      (∀ b, s.rxFifo = [b] → s.rxLatchValid = false →
        (tick s).rxFifo = [] ∧ (tick s).rxLatch = b ∧ (tick s).rxLatchValid = true ∧
          (tick s).arrState = s.arrState ∧ (tick s).arrBuf = s.arrBuf) ∧
      (∀ b, s.rxFifo = [b] → s.rxLatchValid = true → 3 < s.rxLatch.toNat →
        (tick s).rxFifo = [] ∧ (tick s).rxLatchValid = false ∧ (tick s).events.getLsbD 6 = true ∧
          (tick s).arrState = s.arrState ∧ (tick s).arrBuf = s.arrBuf) ∧
      (∀ b, s.rxFifo = [2#8, b] → s.rxLatchValid = false → s.arrState = .idle →
        (tick s).rxFifo = [] ∧ (tick s).rxLatchValid = false ∧ (tick s).arrState = .receiving ∧
          (tick s).receivingID = b ∧ (tick s).arrBuf = [startChunk b] ∧ (tick s).runSum = 0))

/-! ### The host bus and reset -/

/-- R32, R249, R250, R54: a write to CTRL stores its three fields; with bit 3 set it resets the block, whatever the other
bits are, and keeps the configuration and `link_up`. -/
def Obligations.ControlWriteAndReset : Prop :=
  ∀ (s : State) (w : Word) (rest : List Input), s.inputs = .hostWrite 0x00004#20 32 w :: rest →
    (w.getLsbD 3 = false →
      step s = .next
        { s with
          inputs := rest
          enable := w.getLsbD 0
          mode := if w.getLsbD 1 then .rejectIncoming else .regular
          autoDock := w.getLsbD 2 }) ∧
    (w.getLsbD 3 = true →
      ∃ t, step s = .next t ∧ t.config = s.config ∧ t.linkUp = s.linkUp ∧
        t.arg0 = 0 ∧ t.arg1 = 0 ∧ t.arg2 = 0 ∧ t.arg3 = 0 ∧ t.result = .passed ∧
        t.ret0 = 0 ∧ t.ret1 = 0 ∧ t.ret2 = 0 ∧ t.ret3 = 0 ∧
        t.enable = true ∧ t.mode = .regular ∧ t.autoDock = true ∧ t.events = 0 ∧ t.irqEnable = 0 ∧ t.tickCount = 0 ∧
        t.arrState = .idle ∧ t.packetAvailable = false ∧ t.arrBuf = [] ∧ t.runSum = 0 ∧ t.receivingID = 0 ∧
        t.arrivalStatus = .initialised ∧ t.departureStatus = .initialised ∧ t.tax = [] ∧
        t.sending = false ∧ t.txBuf = [] ∧ t.txChunk = 0 ∧ t.txID = 0 ∧ t.txOwner = .none ∧ t.hwStatus = .empty ∧
        t.rxLatchValid = false ∧ t.rxLatch = 0 ∧ t.rxFifo = [] ∧ t.txQueue = [] ∧ t.errValid = false ∧
        (∀ a, t.bwm.read a = none) ∧ (∀ a, t.pwm.read a = none) ∧
        ∀ g ∈ t.gates, g.status = .cleaned ∧ g.timer = 0 ∧ g.lastResult = .passed ∧ g.depPlane = [] ∧
          g.arrParams = [])

/-- R25, R36, R37, R40, R233: a write to an ARG register stores the word, a write to EVENTS clears the bits written as 1
and no others, a write to IRQ_ENABLE stores its low 19 bits, and a write to a read-only or reserved word does nothing. The
interrupt output is high exactly while an event and its enable are both 1. -/
def Obligations.RegisterWrites : Prop :=
  ∀ (s : State) (addr : Addr) (w : Word) (rest : List Input),
    (s.inputs = .hostWrite addr 32 w :: rest →
      (addr.toNat = 0x010 → step s = .next { s with inputs := rest, arg0 := w }) ∧
      (addr.toNat = 0x014 → step s = .next { s with inputs := rest, arg1 := w }) ∧
      (addr.toNat = 0x018 → step s = .next { s with inputs := rest, arg2 := w }) ∧
      (addr.toNat = 0x01C → step s = .next { s with inputs := rest, arg3 := w }) ∧
      (addr.toNat = 0x03C → ∃ t, step s = .next t ∧ t = { s with inputs := rest, events := t.events } ∧
        ∀ i < 19, t.events.getLsbD i = (s.events.getLsbD i && !w.getLsbD i)) ∧
      (addr.toNat = 0x040 → ∃ t, step s = .next t ∧ t = { s with inputs := rest, irqEnable := t.irqEnable } ∧
        ∀ i < 19, t.irqEnable.getLsbD i = w.getLsbD i) ∧
      (addr.toNat = 0x000 ∨ addr.toNat = 0x008 ∨ addr.toNat = 0x020 ∨ addr.toNat = 0x024 ∨ addr.toNat = 0x028 ∨
          addr.toNat = 0x02C ∨ addr.toNat = 0x030 ∨ addr.toNat = 0x034 ∨ addr.toNat = 0x038 ∨ addr.toNat = 0x044 ∨
          addr.toNat = 0x048 ∨ addr.toNat = 0x04C ∨
          (0x050 ≤ addr.toNat ∧ addr.toNat < 0x100 ∧ addr.toNat % 4 = 0) →
        step s = .next { s with inputs := rest })) ∧
    (s.irq = true ↔ ∃ i < 19, s.events.getLsbD i = true ∧ s.irqEnable.getLsbD i = true)

/-- R29, R30, R31, R33, R34, R38, R39, R40: the value the host reads in each word of the register window, as the sum of
its fields. -/
def Obligations.RegisterReads : Prop :=
  ∀ (s : State) (addr : Addr) (rest : List Input) (v : Nat), s.inputs = .hostRead addr 32 :: rest →
    ((addr.toNat, v) ∈
        [(0x000, 7 + 256 * (if s.params.role = .slave then 1 else 0)),
          (0x004, s.enable.toNat + 2 * (if s.mode = .rejectIncoming then 1 else 0) + 4 * s.autoDock.toNat),
          (0x008,
            (match s.arrState with
              | .idle => 0
              | .receiving => 1
              | .complete => 2) +
            2 ^ 2 * s.packetAvailable.toNat +
            2 ^ 4 * (match s.arrivalStatus with
              | .initialised => 0
              | .notEnoughSpace => 1
              | .overflowing => 2
              | .departureAvailable => 3
              | .arrivalReady => 4) +
            2 ^ 8 * (match s.departureStatus with
              | .initialised => 0
              | .notEnoughSpace => 1
              | .overflowing => 2
              | .departureAvailable => 3
              | .arrivalReady => 4) +
            2 ^ 12 * (match s.hwStatus with
              | .empty => 0
              | .jammed => 1
              | .traffic => 2
              | .closed => 3
              | .stopped => 4
              | .error => 5) +
            2 ^ 15 * s.sending.toNat + 2 ^ 16 * (s.tax.length % 256) + 2 ^ 24 * s.rxLatchValid.toNat +
            2 ^ 25 * s.irq.toNat + 2 ^ 26 * s.errValid.toNat),
          (0x00C, 0), (0x010, s.arg0.toNat), (0x014, s.arg1.toNat), (0x018, s.arg2.toNat), (0x01C, s.arg3.toNat),
          (0x020,
            match s.result with
            | .passed => 0
            | .crashed => 1
            | .failed => 2
            | .noConnection => 3
            | .incompatibility => 4
            | .bypassed => 5
            | .unecessary => 6),
          (0x024, s.ret0.toNat), (0x028, s.ret1.toNat), (0x02C, s.ret2.toNat), (0x030, s.ret3.toNat),
          (0x034, s.receivingID.toNat + 2 ^ 8 * (s.arrBuf.length % 65536) + 2 ^ 24 * s.runSum.toNat),
          (0x038, s.tickCount.toNat), (0x03C, s.events.toNat), (0x040, s.irqEnable.toNat),
          (0x044, s.txChunk % 65536 + 2 ^ 16 * (s.txBuf.length % 65536)), (0x048, s.txID.toNat),
          (0x04C, s.params.sizeOfArrivalPlane % 65536 + 2 ^ 16 * (s.params.sizeOfDepartureTaxiway % 256))] ∨
      (0x050 ≤ addr.toNat ∧ addr.toNat < 0x100 ∧ addr.toNat % 4 = 0 ∧ v = 0)) →
    step s = .next { s with inputs := rest, hostData := BitVec.ofNat 32 v }

/-- R66, R67, R68: a host word of the BWM window is four bytes in little-endian order, of which those below BWM_SIZE are
stored and the others read as 0; a host word of the PWM window is one cell, of which the low 16 bits are stored. A read of
an unwritten cell is the model fault UNINIT_READ. -/
def Obligations.MemoryWindows : Prop :=
  ∀ (s : State) (addr : Addr) (w : Word) (rest : List Input) (k : Nat), s.params.bwmSize ≤ 65536 →
    (addr.toNat = 0x10000 + 4 * k → 4 * k < s.params.bwmSize →
      (s.inputs = .hostWrite addr 32 w :: rest →
        ∃ m, step s = .next { s with inputs := rest, bwm := m } ∧
          ∀ b, m.read b = if 4 * k ≤ b ∧ b < 4 * k + 4 ∧ b < s.params.bwmSize then
            some (BitVec.ofNat 8 (w.toNat / 256 ^ (b - 4 * k))) else s.bwm.read b) ∧
      (s.inputs = .hostRead addr 32 :: rest →
        (∀ B : List Byte, B.length = 4 →
          (∀ i < 4, if 4 * k + i < s.params.bwmSize then s.bwm.read (4 * k + i) = B[i]? else B[i]? = some 0) →
            step s = .next { s with inputs := rest, hostData := BitVec.ofNat 32 (littleEndian B) }) ∧
        ((∃ i < 4, 4 * k + i < s.params.bwmSize ∧ s.bwm.read (4 * k + i) = none) →
          step s = .fault .uninitRead))) ∧
    (addr.toNat = 0x20000 + 4 * k → k < s.params.pwmSize →
      (s.inputs = .hostWrite addr 32 w :: rest →
        ∃ m, step s = .next { s with inputs := rest, pwm := m } ∧
          ∀ b, m.read b = if b = k then some (BitVec.ofNat 16 w.toNat) else s.pwm.read b) ∧
      (s.inputs = .hostRead addr 32 :: rest →
        (∀ c, s.pwm.read k = some c →
          step s = .next { s with inputs := rest, hostData := BitVec.ofNat 32 c.toNat }) ∧
        (s.pwm.read k = none → step s = .fault .uninitRead)))

/-- R71, R76: a host access of another width than 32 bits, off a word boundary or outside the windows is the model fault
BUS_REFUSED; every word of the register window answers (a write to CMD as its command does); and a read that answers
changes nothing but the word the host is given. -/
def Obligations.HostAccesses : Prop :=
  ∀ (s : State) (addr : Addr) (width : Nat) (data : Word) (rest : List Input),
    ((width ≠ 32 ∨ addr.toNat % 4 ≠ 0 ∨
        (0x100 ≤ addr.toNat ∧
          ¬ (0x10000 ≤ addr.toNat ∧ addr.toNat < 0x10000 + 4 * ((s.params.bwmSize + 3) / 4)) ∧
          ¬ (0x20000 ≤ addr.toNat ∧ addr.toNat < 0x20000 + 4 * s.params.pwmSize))) →
      (s.inputs = .hostRead addr width :: rest → step s = .fault .busRefused) ∧
      (s.inputs = .hostWrite addr width data :: rest → step s = .fault .busRefused)) ∧
    (addr.toNat < 0x100 → addr.toNat % 4 = 0 →
      (s.inputs = .hostRead addr 32 :: rest → ∃ t, step s = .next t) ∧
      (s.inputs = .hostWrite addr 32 data :: rest → addr.toNat ≠ 0x00C → ∃ t, step s = .next t)) ∧
    (s.inputs = .hostRead addr width :: rest →
      ∀ t, step s = .next t → t = { s with inputs := rest, hostData := t.hostData })

/-! ### Every command and every step -/

/-- R25, R26, R227, R230: what no command writes, whatever it is and however it ends: the configuration, the ARG
registers, CTRL, IRQ_ENABLE, TICK_COUNT, the runway, the FIFOs, the link input and the model's own fields; the RET
registers change only with the result Passed, and no EVENTS bit is cleared. -/
def Obligations.WhatNoCommandWrites : Prop :=
  ∀ (i : Instr) (s t : State), exec i s = .next t →
    t.config = s.config ∧ t.arg0 = s.arg0 ∧ t.arg1 = s.arg1 ∧ t.arg2 = s.arg2 ∧ t.arg3 = s.arg3 ∧
      t.enable = s.enable ∧ t.mode = s.mode ∧ t.autoDock = s.autoDock ∧ t.irqEnable = s.irqEnable ∧
      t.tickCount = s.tickCount ∧ t.sending = s.sending ∧ t.txBuf = s.txBuf ∧ t.txChunk = s.txChunk ∧
      t.txID = s.txID ∧ t.txOwner = s.txOwner ∧ t.hwStatus = s.hwStatus ∧ t.rxLatch = s.rxLatch ∧
      t.rxLatchValid = s.rxLatchValid ∧ t.rxFifo = s.rxFifo ∧ t.txQueue = s.txQueue ∧ t.linkUp = s.linkUp ∧
      t.hostData = s.hostData ∧ t.inputs = s.inputs ∧ s.events &&& t.events = s.events ∧
      (t.result ≠ .passed → t.ret0 = s.ret0 ∧ t.ret1 = s.ret1 ∧ t.ret2 = s.ret2 ∧ t.ret3 = s.ret3)

/-- R228: a command that finishes gives one of the result codes of its row, and so never NoConnection. No command is
refused, and the only fault is UNINIT_READ. -/
def Obligations.ResultCodesOfCommands : Prop :=
  ∀ (i : Instr) (s : State),
    (∃ t, exec i s = .next t ∧ t.result ∈ resultCodesOf i) ∨ exec i s = .fault .uninitRead

/-- The invariant of the block (R6, R41, R43, R45, R47, R48, R51, R74, R141, R192) is kept by every step of every agent
from every state, and no step changes the configuration. -/
def Obligations.StepKeepsInvariant : Prop :=
  ∀ s t : State, s.Inv → step s = .next t → t.Inv ∧ t.config = s.config

/-- R54: the invariant holds after power-on of every configuration, and so of the one the model starts with, which is
the model's choice (logs 4 and 6). -/
def Obligations.PowerOnSatisfiesInvariant : Prop :=
  (∀ (c : Config) (up : Bool), c.wf = true → (State.powerOn c up).Inv) ∧ State.reset.Inv
end

