-- ==== Sys2Proof/Laws/Memory.lean ====
section
/-! SUPPORT. The laws of the work memories: a read after a write, the canonical form, and ranges of cells. -/

namespace Sys2Proof.Machine

variable {w : Nat}

/-- A read after a write of the same cell gives the value written. -/
@[simp] theorem Memory.read_write_same (m : Memory w) (a : Nat) (v : BitVec w) : Memory.read (m.write a v) a = some v := by
  induction m with
  | nil => simp [Memory.write, Memory.read]
  | cons e rest ih =>
    obtain ⟨b, x⟩ := e
    by_cases hlt : a < b
    · simp [Memory.write, Memory.read, hlt]
    · by_cases heq : a = b
      · simp [Memory.write, Memory.read, heq]
      · simp [Memory.write, Memory.read, hlt, heq, ih]

/-- A write leaves every other cell alone. -/
theorem Memory.read_write_other (m : Memory w) {a b : Nat} (v : BitVec w) (h : b ≠ a) :
    Memory.read (m.write a v) b = Memory.read m b := by
  induction m with
  | nil => simp [Memory.write, Memory.read, h]
  | cons e rest ih =>
    obtain ⟨c, x⟩ := e
    by_cases hlt : a < c
    · simp [Memory.write, Memory.read, hlt, h]
    · by_cases heq : a = c
      · subst heq; simp [Memory.write, Memory.read, h]
      · simp [Memory.write, Memory.read, hlt, heq, ih]

/-- The addresses of a memory after a write: the old ones and the one written. -/
theorem Memory.mem_write_addr (m : Memory w) (a : Nat) (v : BitVec w) (b : Nat) :
    b ∈ (Memory.write m a v).map Prod.fst → b = a ∨ b ∈ m.map Prod.fst := by
  induction m with
  | nil => simp [Memory.write]
  | cons e rest ih =>
    obtain ⟨c, x⟩ := e
    unfold Memory.write
    split
    · simp
    · split
      · next h => subst h; simp
      · intro h
        simp only [List.map_cons, List.mem_cons] at h ⊢
        rcases h with h | h
        · exact .inr (.inl h)
        · rcases ih h with h | h
          · exact .inl h
          · exact .inr (.inr h)

/-- A write keeps the canonical form. -/
theorem Memory.write_wf (m : Memory w) (a : Nat) (v : BitVec w) (h : m.wf) : (Memory.write m a v).wf := by
  induction m with
  | nil => simp [Memory.write, Memory.wf]
  | cons e rest ih =>
    obtain ⟨c, x⟩ := e
    have hc := List.pairwise_cons.mp h
    unfold Memory.write
    split
    · next hlt =>
      refine List.pairwise_cons.mpr ⟨?_, h⟩
      intro b hb
      rcases List.mem_cons.mp hb with hb | hb
      · exact hb ▸ hlt
      · exact Nat.lt_trans hlt (hc.1 b hb)
    · split
      · next heq => exact heq ▸ h
      · next hlt hne =>
        refine List.pairwise_cons.mpr ⟨?_, ih hc.2⟩
        intro b hb
        rcases Memory.mem_write_addr rest a v b hb with hb | hb
        · subst hb; dsimp only; omega
        · exact hc.1 b hb

/-- Writing consecutive cells keeps the canonical form. -/
theorem Memory.writeRange_wf (m : Memory w) (a : Nat) (vs : List (BitVec w)) (h : m.wf) : (Memory.writeRange m a vs).wf := by
  induction vs generalizing m a with
  | nil => exact h
  | cons v vs ih => exact ih _ _ (Memory.write_wf m a v h)

/-- The addresses of a memory after consecutive writes. -/
theorem Memory.mem_writeRange_addr (m : Memory w) (a : Nat) (vs : List (BitVec w)) (b : Nat)
    (h : b ∈ (Memory.writeRange m a vs).map Prod.fst) : (a ≤ b ∧ b < a + vs.length) ∨ b ∈ m.map Prod.fst := by
  induction vs generalizing m a with
  | nil => exact .inr h
  | cons v vs ih =>
    rcases ih _ _ h with h | h
    · simp only [List.length_cons]; omega
    · rcases Memory.mem_write_addr m a v b h with h | h
      · simp only [List.length_cons]; omega
      · exact .inr h

/-- A read after consecutive writes: the value written inside the range, the old value outside it. -/
theorem Memory.read_writeRange (m : Memory w) (a : Nat) (vs : List (BitVec w)) (b : Nat) :
    Memory.read (m.writeRange a vs) b = if a ≤ b ∧ b < a + vs.length then vs[b - a]? else Memory.read m b := by
  induction vs generalizing m a with
  | nil => simp [Memory.writeRange]
  | cons v vs ih =>
    rw [Memory.writeRange, ih]
    by_cases hin : a + 1 ≤ b ∧ b < a + 1 + vs.length
    · have h1 : a ≤ b ∧ b < a + (v :: vs).length := by simp only [List.length_cons]; omega
      have h2 : b - a = (b - (a + 1)) + 1 := by omega
      rw [if_pos hin, if_pos h1, h2, List.getElem?_cons_succ]
    · rw [if_neg hin]
      by_cases hb : b = a
      · subst hb; simp
      · have h1 : ¬(a ≤ b ∧ b < a + (v :: vs).length) := by simp only [List.length_cons]; omega
        rw [if_neg h1, Memory.read_write_other m v hb]

/-- All cells of a list are written exactly when the list is one of values. -/
theorem allWritten_eq_some {α : Type} {cells : List (Option α)} {vs : List α} :
    allWritten cells = some vs ↔ cells = vs.map some := by
  induction cells generalizing vs with
  | nil => cases vs <;> simp [allWritten]
  | cons c rest ih =>
    cases c with
    | none => cases vs <;> simp [allWritten]
    | some v =>
      cases vs with
      | nil => simp [allWritten]
      | cons u us =>
        simp only [allWritten, Option.map_eq_some_iff, List.cons.injEq, List.map_cons, Option.some.injEq]
        constructor
        · rintro ⟨l, hl, rfl, rfl⟩; exact ⟨rfl, ih.mp hl⟩
        · rintro ⟨rfl, h⟩; exact ⟨us, ih.mpr h, rfl, rfl⟩

/-- The number of cells of a range. -/
@[simp] theorem Memory.cells_length (m : Memory w) (a n : Nat) : (Memory.cells m a n).length = n := by
  simp [Memory.cells]

/-- The cells of a range are values exactly when every read of the range gives that value. -/
theorem Memory.cells_eq_map_some (m : Memory w) (a n : Nat) (vs : List (BitVec w)) :
    Memory.cells m a n = vs.map some ↔ vs.length = n ∧ ∀ i < n, Memory.read m (a + i) = vs[i]? := by
  constructor
  · intro h
    have hl : vs.length = n := by simpa using (congrArg List.length h).symm
    refine ⟨hl, fun i hi => ?_⟩
    have := congrArg (·[i]?) h
    simp only [Memory.cells, List.getElem?_map, List.getElem?_range hi, Option.map_some] at this
    have hi' : i < vs.length := by omega
    simp only [List.getElem?_eq_getElem hi', Option.map_some, Option.some.injEq] at this ⊢
    exact this
  · rintro ⟨hl, h⟩
    apply List.ext_getElem?
    intro i
    by_cases hi : i < n
    · have hi' : i < vs.length := by omega
      simp [Memory.cells, List.getElem?_range hi, h i hi, List.getElem?_eq_getElem hi']
    · have hi' : vs.length ≤ i := by omega
      rw [List.getElem?_eq_none (by simp; omega), List.getElem?_eq_none (by simpa using hi')]

/-- `MemRead` gives the values of a range exactly when every read of the range gives them. -/
theorem Memory.readRange_eq_some (m : Memory w) (a n : Nat) (vs : List (BitVec w)) :
    Memory.readRange m a n = some vs ↔ vs.length = n ∧ ∀ i < n, Memory.read m (a + i) = vs[i]? := by
  rw [Memory.readRange, allWritten_eq_some, Memory.cells_eq_map_some]

/-- A list of cells has all cells written, or one of them is unwritten. -/
theorem allWritten_eq_none {α : Type} {cells : List (Option α)} : allWritten cells = none ↔ none ∈ cells := by
  induction cells with
  | nil => simp [allWritten]
  | cons c rest ih => cases c <;> simp [allWritten, ih]

/-- `MemRead` meets an unwritten cell exactly when some read of the range gives no value. -/
theorem Memory.readRange_eq_none (m : Memory w) (a n : Nat) :
    Memory.readRange m a n = none ↔ ∃ i < n, Memory.read m (a + i) = none := by
  simp [Memory.readRange, allWritten_eq_none, Memory.cells]

/-- The empty memory of reset is in canonical form. -/
theorem Memory.empty_wf : Memory.wf ([] : Memory w) := List.Pairwise.nil

end Sys2Proof.Machine
end

