-- ==== Sys2Proof/Laws/Codec.lean ====
section
/-! SUPPORT. The laws of the codecs: chunks (40_chunk.md R100), the scan for the Check chunk (42_packet.md R118) and the
planes in memory. -/

namespace Sys2Proof.Machine

/-! ### Chunks -/

theorem typeOf_byte_iff (c : Chunk) : typeOf c = some .byte ↔ c.toNat / 256 = 0 := by
  unfold typeOf
  split <;> simp_all

theorem typeOf_div_iff (c : Chunk) : typeOf c = some .div ↔ c.toNat / 256 = 1 := by
  unfold typeOf
  split <;> first | (simp_all; done) | (simp_all; omega)

theorem typeOf_start_iff (c : Chunk) : typeOf c = some .start ↔ c.toNat / 256 = 2 := by
  unfold typeOf
  split <;> first | (simp_all; done) | (simp_all; omega)

theorem typeOf_check_iff (c : Chunk) : typeOf c = some .check ↔ c.toNat / 256 = 3 := by
  unfold typeOf
  split <;> first | (simp_all; done) | (simp_all; omega)

theorem typeOf_none_iff (c : Chunk) : typeOf c = none ↔ 1023 < c.toNat := by
  unfold typeOf
  split <;> simp_all <;> omega

@[simp] theorem byteOf_toNat (c : Chunk) : (byteOf c).toNat = c.toNat % 256 := by simp [byteOf]

theorem ChunkType.index_lt (t : ChunkType) : t.index < 4 := by cases t <;> decide

@[simp] theorem encodeChunk_toNat (v : Byte) (t : ChunkType) :
    (encodeChunk v t).toNat = 256 * t.index + v.toNat := by
  have := t.index_lt
  have := v.isLt
  simp only [encodeChunk, BitVec.toNat_ofNat]
  omega

@[simp] theorem byteOf_encodeChunk (v : Byte) (t : ChunkType) : byteOf (encodeChunk v t) = v := by
  have := v.isLt
  apply BitVec.eq_of_toNat_eq
  rw [byteOf_toNat, encodeChunk_toNat]
  omega

@[simp] theorem typeOf_encodeChunk (v : Byte) (t : ChunkType) : typeOf (encodeChunk v t) = some t := by
  have := v.isLt
  cases t
  · rw [typeOf_byte_iff, encodeChunk_toNat, ChunkType.index]; omega
  · rw [typeOf_div_iff, encodeChunk_toNat, ChunkType.index]; omega
  · rw [typeOf_start_iff, encodeChunk_toNat, ChunkType.index]; omega
  · rw [typeOf_check_iff, encodeChunk_toNat, ChunkType.index]; omega

/-- The wire form of a chunk is read back (30_encoding.md R94). -/
theorem fromWire_toWire (c : Chunk) (h : c.toNat ≤ 1023) : fromWire (toWire c).1 (toWire c).2 = some c := by
  have h0 : (toWire c).1.toNat = c.toNat / 256 := by
    simp only [toWire, BitVec.toNat_setWidth, BitVec.toNat_ushiftRight, Nat.shiftRight_eq_div_pow]
    omega
  have h1 : (toWire c).2.toNat = c.toNat % 256 := by simp [toWire]
  rw [fromWire, if_pos (by omega), h0, h1]
  congr 1
  apply BitVec.eq_of_toNat_eq
  rw [BitVec.toNat_ofNat]
  omega

/-! ### The scan for the Check chunk -/

/-- A scan over cells that all hold values answers. -/
theorem scanCheck_map_some (P : List Chunk) (i : Nat) : scanCheck (P.map some) i ≠ none := by
  induction P generalizing i with
  | nil => simp [scanCheck]
  | cons c P ih =>
    simp only [List.map_cons, scanCheck]
    split
    · simp
    · split
      · simp
      · exact ih (i + 1)

/-- A scan of a chunk sequence answers: only an unwritten cell gives no answer. -/
theorem totalSize_map_some (P : List Chunk) : totalSize (P.map some) ≠ none := by
  cases P with
  | nil => simp [totalSize]
  | cons c P =>
    simp only [List.map_cons, totalSize]
    split
    · exact scanCheck_map_some P 1
    · simp

/-- The scan passes over chunks that are no Check and stops at the first Check. -/
theorem scanCheck_append (mid : List Chunk) (rest : List (Option Chunk)) (i : Nat) (h : ∀ c ∈ mid, c.toNat < 768) :
    scanCheck (mid.map some ++ rest) i = scanCheck rest (i + mid.length) := by
  induction mid generalizing i with
  | nil => simp
  | cons c mid ih =>
    have hc := h c (by simp)
    have hne : ¬ typeOf c = some .check := by rw [typeOf_check_iff]; omega
    have hchunk : isChunk c = true := by simp [isChunk]; omega
    simp only [List.map_cons, List.cons_append, scanCheck, hchunk, hne, List.length_cons]
    rw [show i + (mid.length + 1) = i + 1 + mid.length by omega]
    simpa using ih (i + 1) fun c hc => h c (by simp [hc])

/-- The size of a plane: Start, chunks that are no Check, and a Check (R118). -/
theorem totalSize_plane (first : Chunk) (mid : List Chunk) (last : Chunk) (rest : List (Option Chunk))
    (hf : first.toNat / 256 = 2) (hm : ∀ c ∈ mid, c.toNat < 768) (hl : last.toNat / 256 = 3) :
    totalSize (some first :: (mid.map some ++ some last :: rest)) = some (.ok (mid.length + 2)) := by
  have hchunk : isChunk last = true := by simp [isChunk]; omega
  rw [totalSize, if_pos ((typeOf_start_iff first).mpr hf), scanCheck_append mid _ 1 hm, scanCheck]
  simp only [hchunk, (typeOf_check_iff last).mpr hl]
  simp
  omega

/-- What lies between the first and the last chunk of a plane. -/
@[simp] theorem inner_plane (first : Chunk) (mid : List Chunk) (last : Chunk) :
    inner (first :: (mid ++ [last])) = mid := by simp [inner]

/-! ### Sums -/

theorem cks_append (S T : List Chunk) : cks (S ++ T) = cks S + cks T := by
  have h : ∀ (L : List Chunk) (a : Byte), L.foldl (fun acc c => acc + byteOf c) a = a + cks L := by
    intro L
    induction L with
    | nil => intro a; simp [cks]
    | cons c L ih =>
      intro a
      simp only [cks, List.foldl_cons]
      rw [ih, ih (0 + byteOf c), ← BitVec.add_assoc, ← BitVec.add_assoc]
      simp
  simp only [cks, List.foldl_append]
  rw [h]
  simp [cks]

@[simp] theorem cks_nil : cks [] = 0 := rfl

theorem cks_cons (c : Chunk) (S : List Chunk) : cks (c :: S) = byteOf c + cks S := by
  rw [show c :: S = [c] ++ S from rfl, cks_append]
  simp [cks]

end Sys2Proof.Machine
end

