-- ==== Sys2Proof/Laws/Decode.lean ====
section
/-! SUPPORT. The opcode map and the list of illegal opcodes agree (30_encoding.md R88, R89). -/

namespace Sys2Proof

/-- No two rows of the opcode map share an opcode. -/
theorem opcodeMap_nodup : (opcodeMap.map (·.1)).Nodup := by decide

/-- The opcode map holds 29 commands (R90). -/
theorem opcodeMap_length : opcodeMap.length = 29 := rfl

/-- The ranges of R89 leave exactly the opcodes of R88. -/
theorem listedOpcode_eq_isSome : ∀ op : Byte, listedOpcode op = (commandOf op).isSome := by decide

/-- Every command is found at its own opcode. -/
@[simp] theorem commandOf_opcodeOf (i : Instr) : commandOf (opcodeOf i) = some i := by cases i <;> rfl

/-- The bits of the word of two fields. -/
theorem CmdWord.toWord_getLsbD (c : CmdWord) (i : Nat) :
    c.toWord.getLsbD i = if i < 8 then c.opcode.getLsbD i else c.mbz.getLsbD (i - 8) := BitVec.getLsbD_append

/-- The two fields of the word of two fields. -/
@[simp] theorem CmdWord.ofWord_toWord (c : CmdWord) : CmdWord.ofWord c.toWord = c := by
  have h1 : c.toWord.extractLsb' 0 8 = c.opcode := by
    apply BitVec.eq_of_getLsbD_eq
    intro i hi
    simp [CmdWord.toWord_getLsbD, hi]
  have h2 : c.toWord.extractLsb' 8 24 = c.mbz := by
    apply BitVec.eq_of_getLsbD_eq
    intro i hi
    simp [CmdWord.toWord_getLsbD, hi]
  rw [CmdWord.ofWord, h1, h2]

/-- A word is the word of its two fields. -/
@[simp] theorem CmdWord.toWord_ofWord (w : Word) : (CmdWord.ofWord w).toWord = w := by
  apply BitVec.eq_of_getLsbD_eq
  intro i hi
  rw [CmdWord.toWord_getLsbD]
  simp only [CmdWord.ofWord, BitVec.getLsbD_extractLsb']
  split
  · simp [*]
  · rw [show 8 + (i - 8) = i by omega, show decide (i - 8 < 24) = true by simp; omega, Bool.true_and]

end Sys2Proof
end

