-- ==== Sys2Proof/Laws/State.lean ====
section
/-! SUPPORT. What each named update of the state leaves alone: one lemma per field per update, true by `rfl`, so that no
later proof unfolds a record update. -/

namespace Sys2Proof.Machine

/-! ### State.report -/

@[simp] theorem State.report_params (e : Event) (s : State) : (s.report e).params = s.params := rfl
@[simp] theorem State.report_gates (e : Event) (s : State) : (s.report e).gates = s.gates := rfl
@[simp] theorem State.report_arg0 (e : Event) (s : State) : (s.report e).arg0 = s.arg0 := rfl
@[simp] theorem State.report_arg1 (e : Event) (s : State) : (s.report e).arg1 = s.arg1 := rfl
@[simp] theorem State.report_arg2 (e : Event) (s : State) : (s.report e).arg2 = s.arg2 := rfl
@[simp] theorem State.report_arg3 (e : Event) (s : State) : (s.report e).arg3 = s.arg3 := rfl
@[simp] theorem State.report_result (e : Event) (s : State) : (s.report e).result = s.result := rfl
@[simp] theorem State.report_ret0 (e : Event) (s : State) : (s.report e).ret0 = s.ret0 := rfl
@[simp] theorem State.report_ret1 (e : Event) (s : State) : (s.report e).ret1 = s.ret1 := rfl
@[simp] theorem State.report_ret2 (e : Event) (s : State) : (s.report e).ret2 = s.ret2 := rfl
@[simp] theorem State.report_ret3 (e : Event) (s : State) : (s.report e).ret3 = s.ret3 := rfl
@[simp] theorem State.report_enable (e : Event) (s : State) : (s.report e).enable = s.enable := rfl
@[simp] theorem State.report_mode (e : Event) (s : State) : (s.report e).mode = s.mode := rfl
@[simp] theorem State.report_autoDock (e : Event) (s : State) : (s.report e).autoDock = s.autoDock := rfl
@[simp] theorem State.report_irqEnable (e : Event) (s : State) : (s.report e).irqEnable = s.irqEnable := rfl
@[simp] theorem State.report_tickCount (e : Event) (s : State) : (s.report e).tickCount = s.tickCount := rfl
@[simp] theorem State.report_arrState (e : Event) (s : State) : (s.report e).arrState = s.arrState := rfl
@[simp] theorem State.report_packetAvailable (e : Event) (s : State) : (s.report e).packetAvailable = s.packetAvailable := rfl
@[simp] theorem State.report_arrBuf (e : Event) (s : State) : (s.report e).arrBuf = s.arrBuf := rfl
@[simp] theorem State.report_runSum (e : Event) (s : State) : (s.report e).runSum = s.runSum := rfl
@[simp] theorem State.report_receivingID (e : Event) (s : State) : (s.report e).receivingID = s.receivingID := rfl
@[simp] theorem State.report_arrivalStatus (e : Event) (s : State) : (s.report e).arrivalStatus = s.arrivalStatus := rfl
@[simp] theorem State.report_departureStatus (e : Event) (s : State) : (s.report e).departureStatus = s.departureStatus := rfl
@[simp] theorem State.report_tax (e : Event) (s : State) : (s.report e).tax = s.tax := rfl
@[simp] theorem State.report_sending (e : Event) (s : State) : (s.report e).sending = s.sending := rfl
@[simp] theorem State.report_txBuf (e : Event) (s : State) : (s.report e).txBuf = s.txBuf := rfl
@[simp] theorem State.report_txChunk (e : Event) (s : State) : (s.report e).txChunk = s.txChunk := rfl
@[simp] theorem State.report_txID (e : Event) (s : State) : (s.report e).txID = s.txID := rfl
@[simp] theorem State.report_txOwner (e : Event) (s : State) : (s.report e).txOwner = s.txOwner := rfl
@[simp] theorem State.report_hwStatus (e : Event) (s : State) : (s.report e).hwStatus = s.hwStatus := rfl
@[simp] theorem State.report_rejectedThisTick (e : Event) (s : State) : (s.report e).rejectedThisTick = s.rejectedThisTick := rfl
@[simp] theorem State.report_rxLatch (e : Event) (s : State) : (s.report e).rxLatch = s.rxLatch := rfl
@[simp] theorem State.report_rxLatchValid (e : Event) (s : State) : (s.report e).rxLatchValid = s.rxLatchValid := rfl
@[simp] theorem State.report_rxFifo (e : Event) (s : State) : (s.report e).rxFifo = s.rxFifo := rfl
@[simp] theorem State.report_txQueue (e : Event) (s : State) : (s.report e).txQueue = s.txQueue := rfl
@[simp] theorem State.report_linkUp (e : Event) (s : State) : (s.report e).linkUp = s.linkUp := rfl
@[simp] theorem State.report_errPlane (e : Event) (s : State) : (s.report e).errPlane = s.errPlane := rfl
@[simp] theorem State.report_errValid (e : Event) (s : State) : (s.report e).errValid = s.errValid := rfl
@[simp] theorem State.report_bwm (e : Event) (s : State) : (s.report e).bwm = s.bwm := rfl
@[simp] theorem State.report_pwm (e : Event) (s : State) : (s.report e).pwm = s.pwm := rfl
@[simp] theorem State.report_hostData (e : Event) (s : State) : (s.report e).hostData = s.hostData := rfl
@[simp] theorem State.report_inputs (e : Event) (s : State) : (s.report e).inputs = s.inputs := rfl

/-! ### State.updateGate -/

@[simp] theorem State.updateGate_params (id : Byte) (f : Gate → Gate) (s : State) : (s.updateGate id f).params = s.params := rfl
@[simp] theorem State.updateGate_arg0 (id : Byte) (f : Gate → Gate) (s : State) : (s.updateGate id f).arg0 = s.arg0 := rfl
@[simp] theorem State.updateGate_arg1 (id : Byte) (f : Gate → Gate) (s : State) : (s.updateGate id f).arg1 = s.arg1 := rfl
@[simp] theorem State.updateGate_arg2 (id : Byte) (f : Gate → Gate) (s : State) : (s.updateGate id f).arg2 = s.arg2 := rfl
@[simp] theorem State.updateGate_arg3 (id : Byte) (f : Gate → Gate) (s : State) : (s.updateGate id f).arg3 = s.arg3 := rfl
@[simp] theorem State.updateGate_result (id : Byte) (f : Gate → Gate) (s : State) : (s.updateGate id f).result = s.result := rfl
@[simp] theorem State.updateGate_ret0 (id : Byte) (f : Gate → Gate) (s : State) : (s.updateGate id f).ret0 = s.ret0 := rfl
@[simp] theorem State.updateGate_ret1 (id : Byte) (f : Gate → Gate) (s : State) : (s.updateGate id f).ret1 = s.ret1 := rfl
@[simp] theorem State.updateGate_ret2 (id : Byte) (f : Gate → Gate) (s : State) : (s.updateGate id f).ret2 = s.ret2 := rfl
@[simp] theorem State.updateGate_ret3 (id : Byte) (f : Gate → Gate) (s : State) : (s.updateGate id f).ret3 = s.ret3 := rfl
@[simp] theorem State.updateGate_enable (id : Byte) (f : Gate → Gate) (s : State) : (s.updateGate id f).enable = s.enable := rfl
@[simp] theorem State.updateGate_mode (id : Byte) (f : Gate → Gate) (s : State) : (s.updateGate id f).mode = s.mode := rfl
@[simp] theorem State.updateGate_autoDock (id : Byte) (f : Gate → Gate) (s : State) : (s.updateGate id f).autoDock = s.autoDock := rfl
@[simp] theorem State.updateGate_events (id : Byte) (f : Gate → Gate) (s : State) : (s.updateGate id f).events = s.events := rfl
@[simp] theorem State.updateGate_irqEnable (id : Byte) (f : Gate → Gate) (s : State) : (s.updateGate id f).irqEnable = s.irqEnable := rfl
@[simp] theorem State.updateGate_tickCount (id : Byte) (f : Gate → Gate) (s : State) : (s.updateGate id f).tickCount = s.tickCount := rfl
@[simp] theorem State.updateGate_arrState (id : Byte) (f : Gate → Gate) (s : State) : (s.updateGate id f).arrState = s.arrState := rfl
@[simp] theorem State.updateGate_packetAvailable (id : Byte) (f : Gate → Gate) (s : State) : (s.updateGate id f).packetAvailable = s.packetAvailable := rfl
@[simp] theorem State.updateGate_arrBuf (id : Byte) (f : Gate → Gate) (s : State) : (s.updateGate id f).arrBuf = s.arrBuf := rfl
@[simp] theorem State.updateGate_runSum (id : Byte) (f : Gate → Gate) (s : State) : (s.updateGate id f).runSum = s.runSum := rfl
@[simp] theorem State.updateGate_receivingID (id : Byte) (f : Gate → Gate) (s : State) : (s.updateGate id f).receivingID = s.receivingID := rfl
@[simp] theorem State.updateGate_arrivalStatus (id : Byte) (f : Gate → Gate) (s : State) : (s.updateGate id f).arrivalStatus = s.arrivalStatus := rfl
@[simp] theorem State.updateGate_departureStatus (id : Byte) (f : Gate → Gate) (s : State) : (s.updateGate id f).departureStatus = s.departureStatus := rfl
@[simp] theorem State.updateGate_tax (id : Byte) (f : Gate → Gate) (s : State) : (s.updateGate id f).tax = s.tax := rfl
@[simp] theorem State.updateGate_sending (id : Byte) (f : Gate → Gate) (s : State) : (s.updateGate id f).sending = s.sending := rfl
@[simp] theorem State.updateGate_txBuf (id : Byte) (f : Gate → Gate) (s : State) : (s.updateGate id f).txBuf = s.txBuf := rfl
@[simp] theorem State.updateGate_txChunk (id : Byte) (f : Gate → Gate) (s : State) : (s.updateGate id f).txChunk = s.txChunk := rfl
@[simp] theorem State.updateGate_txID (id : Byte) (f : Gate → Gate) (s : State) : (s.updateGate id f).txID = s.txID := rfl
@[simp] theorem State.updateGate_txOwner (id : Byte) (f : Gate → Gate) (s : State) : (s.updateGate id f).txOwner = s.txOwner := rfl
@[simp] theorem State.updateGate_hwStatus (id : Byte) (f : Gate → Gate) (s : State) : (s.updateGate id f).hwStatus = s.hwStatus := rfl
@[simp] theorem State.updateGate_rejectedThisTick (id : Byte) (f : Gate → Gate) (s : State) : (s.updateGate id f).rejectedThisTick = s.rejectedThisTick := rfl
@[simp] theorem State.updateGate_rxLatch (id : Byte) (f : Gate → Gate) (s : State) : (s.updateGate id f).rxLatch = s.rxLatch := rfl
@[simp] theorem State.updateGate_rxLatchValid (id : Byte) (f : Gate → Gate) (s : State) : (s.updateGate id f).rxLatchValid = s.rxLatchValid := rfl
@[simp] theorem State.updateGate_rxFifo (id : Byte) (f : Gate → Gate) (s : State) : (s.updateGate id f).rxFifo = s.rxFifo := rfl
@[simp] theorem State.updateGate_txQueue (id : Byte) (f : Gate → Gate) (s : State) : (s.updateGate id f).txQueue = s.txQueue := rfl
@[simp] theorem State.updateGate_linkUp (id : Byte) (f : Gate → Gate) (s : State) : (s.updateGate id f).linkUp = s.linkUp := rfl
@[simp] theorem State.updateGate_errPlane (id : Byte) (f : Gate → Gate) (s : State) : (s.updateGate id f).errPlane = s.errPlane := rfl
@[simp] theorem State.updateGate_errValid (id : Byte) (f : Gate → Gate) (s : State) : (s.updateGate id f).errValid = s.errValid := rfl
@[simp] theorem State.updateGate_bwm (id : Byte) (f : Gate → Gate) (s : State) : (s.updateGate id f).bwm = s.bwm := rfl
@[simp] theorem State.updateGate_pwm (id : Byte) (f : Gate → Gate) (s : State) : (s.updateGate id f).pwm = s.pwm := rfl
@[simp] theorem State.updateGate_hostData (id : Byte) (f : Gate → Gate) (s : State) : (s.updateGate id f).hostData = s.hostData := rfl
@[simp] theorem State.updateGate_inputs (id : Byte) (f : Gate → Gate) (s : State) : (s.updateGate id f).inputs = s.inputs := rfl

/-! ### beginPlane -/

@[simp] theorem beginPlane_params (c : Chunk) (s : State) : (beginPlane c s).params = s.params := rfl
@[simp] theorem beginPlane_gates (c : Chunk) (s : State) : (beginPlane c s).gates = s.gates := rfl
@[simp] theorem beginPlane_arg0 (c : Chunk) (s : State) : (beginPlane c s).arg0 = s.arg0 := rfl
@[simp] theorem beginPlane_arg1 (c : Chunk) (s : State) : (beginPlane c s).arg1 = s.arg1 := rfl
@[simp] theorem beginPlane_arg2 (c : Chunk) (s : State) : (beginPlane c s).arg2 = s.arg2 := rfl
@[simp] theorem beginPlane_arg3 (c : Chunk) (s : State) : (beginPlane c s).arg3 = s.arg3 := rfl
@[simp] theorem beginPlane_result (c : Chunk) (s : State) : (beginPlane c s).result = s.result := rfl
@[simp] theorem beginPlane_ret0 (c : Chunk) (s : State) : (beginPlane c s).ret0 = s.ret0 := rfl
@[simp] theorem beginPlane_ret1 (c : Chunk) (s : State) : (beginPlane c s).ret1 = s.ret1 := rfl
@[simp] theorem beginPlane_ret2 (c : Chunk) (s : State) : (beginPlane c s).ret2 = s.ret2 := rfl
@[simp] theorem beginPlane_ret3 (c : Chunk) (s : State) : (beginPlane c s).ret3 = s.ret3 := rfl
@[simp] theorem beginPlane_enable (c : Chunk) (s : State) : (beginPlane c s).enable = s.enable := rfl
@[simp] theorem beginPlane_mode (c : Chunk) (s : State) : (beginPlane c s).mode = s.mode := rfl
@[simp] theorem beginPlane_autoDock (c : Chunk) (s : State) : (beginPlane c s).autoDock = s.autoDock := rfl
@[simp] theorem beginPlane_events (c : Chunk) (s : State) : (beginPlane c s).events = s.events := rfl
@[simp] theorem beginPlane_irqEnable (c : Chunk) (s : State) : (beginPlane c s).irqEnable = s.irqEnable := rfl
@[simp] theorem beginPlane_tickCount (c : Chunk) (s : State) : (beginPlane c s).tickCount = s.tickCount := rfl
@[simp] theorem beginPlane_arrivalStatus (c : Chunk) (s : State) : (beginPlane c s).arrivalStatus = s.arrivalStatus := rfl
@[simp] theorem beginPlane_departureStatus (c : Chunk) (s : State) : (beginPlane c s).departureStatus = s.departureStatus := rfl
@[simp] theorem beginPlane_tax (c : Chunk) (s : State) : (beginPlane c s).tax = s.tax := rfl
@[simp] theorem beginPlane_sending (c : Chunk) (s : State) : (beginPlane c s).sending = s.sending := rfl
@[simp] theorem beginPlane_txBuf (c : Chunk) (s : State) : (beginPlane c s).txBuf = s.txBuf := rfl
@[simp] theorem beginPlane_txChunk (c : Chunk) (s : State) : (beginPlane c s).txChunk = s.txChunk := rfl
@[simp] theorem beginPlane_txID (c : Chunk) (s : State) : (beginPlane c s).txID = s.txID := rfl
@[simp] theorem beginPlane_txOwner (c : Chunk) (s : State) : (beginPlane c s).txOwner = s.txOwner := rfl
@[simp] theorem beginPlane_hwStatus (c : Chunk) (s : State) : (beginPlane c s).hwStatus = s.hwStatus := rfl
@[simp] theorem beginPlane_rejectedThisTick (c : Chunk) (s : State) : (beginPlane c s).rejectedThisTick = s.rejectedThisTick := rfl
@[simp] theorem beginPlane_rxLatch (c : Chunk) (s : State) : (beginPlane c s).rxLatch = s.rxLatch := rfl
@[simp] theorem beginPlane_rxLatchValid (c : Chunk) (s : State) : (beginPlane c s).rxLatchValid = s.rxLatchValid := rfl
@[simp] theorem beginPlane_rxFifo (c : Chunk) (s : State) : (beginPlane c s).rxFifo = s.rxFifo := rfl
@[simp] theorem beginPlane_txQueue (c : Chunk) (s : State) : (beginPlane c s).txQueue = s.txQueue := rfl
@[simp] theorem beginPlane_linkUp (c : Chunk) (s : State) : (beginPlane c s).linkUp = s.linkUp := rfl
@[simp] theorem beginPlane_errPlane (c : Chunk) (s : State) : (beginPlane c s).errPlane = s.errPlane := rfl
@[simp] theorem beginPlane_errValid (c : Chunk) (s : State) : (beginPlane c s).errValid = s.errValid := rfl
@[simp] theorem beginPlane_bwm (c : Chunk) (s : State) : (beginPlane c s).bwm = s.bwm := rfl
@[simp] theorem beginPlane_pwm (c : Chunk) (s : State) : (beginPlane c s).pwm = s.pwm := rfl
@[simp] theorem beginPlane_hostData (c : Chunk) (s : State) : (beginPlane c s).hostData = s.hostData := rfl
@[simp] theorem beginPlane_inputs (c : Chunk) (s : State) : (beginPlane c s).inputs = s.inputs := rfl

/-! ### dropPlane -/

@[simp] theorem dropPlane_params (s : State) : (dropPlane s).params = s.params := rfl
@[simp] theorem dropPlane_gates (s : State) : (dropPlane s).gates = s.gates := rfl
@[simp] theorem dropPlane_arg0 (s : State) : (dropPlane s).arg0 = s.arg0 := rfl
@[simp] theorem dropPlane_arg1 (s : State) : (dropPlane s).arg1 = s.arg1 := rfl
@[simp] theorem dropPlane_arg2 (s : State) : (dropPlane s).arg2 = s.arg2 := rfl
@[simp] theorem dropPlane_arg3 (s : State) : (dropPlane s).arg3 = s.arg3 := rfl
@[simp] theorem dropPlane_result (s : State) : (dropPlane s).result = s.result := rfl
@[simp] theorem dropPlane_ret0 (s : State) : (dropPlane s).ret0 = s.ret0 := rfl
@[simp] theorem dropPlane_ret1 (s : State) : (dropPlane s).ret1 = s.ret1 := rfl
@[simp] theorem dropPlane_ret2 (s : State) : (dropPlane s).ret2 = s.ret2 := rfl
@[simp] theorem dropPlane_ret3 (s : State) : (dropPlane s).ret3 = s.ret3 := rfl
@[simp] theorem dropPlane_enable (s : State) : (dropPlane s).enable = s.enable := rfl
@[simp] theorem dropPlane_mode (s : State) : (dropPlane s).mode = s.mode := rfl
@[simp] theorem dropPlane_autoDock (s : State) : (dropPlane s).autoDock = s.autoDock := rfl
@[simp] theorem dropPlane_events (s : State) : (dropPlane s).events = s.events := rfl
@[simp] theorem dropPlane_irqEnable (s : State) : (dropPlane s).irqEnable = s.irqEnable := rfl
@[simp] theorem dropPlane_tickCount (s : State) : (dropPlane s).tickCount = s.tickCount := rfl
@[simp] theorem dropPlane_packetAvailable (s : State) : (dropPlane s).packetAvailable = s.packetAvailable := rfl
@[simp] theorem dropPlane_receivingID (s : State) : (dropPlane s).receivingID = s.receivingID := rfl
@[simp] theorem dropPlane_arrivalStatus (s : State) : (dropPlane s).arrivalStatus = s.arrivalStatus := rfl
@[simp] theorem dropPlane_departureStatus (s : State) : (dropPlane s).departureStatus = s.departureStatus := rfl
@[simp] theorem dropPlane_tax (s : State) : (dropPlane s).tax = s.tax := rfl
@[simp] theorem dropPlane_sending (s : State) : (dropPlane s).sending = s.sending := rfl
@[simp] theorem dropPlane_txBuf (s : State) : (dropPlane s).txBuf = s.txBuf := rfl
@[simp] theorem dropPlane_txChunk (s : State) : (dropPlane s).txChunk = s.txChunk := rfl
@[simp] theorem dropPlane_txID (s : State) : (dropPlane s).txID = s.txID := rfl
@[simp] theorem dropPlane_txOwner (s : State) : (dropPlane s).txOwner = s.txOwner := rfl
@[simp] theorem dropPlane_hwStatus (s : State) : (dropPlane s).hwStatus = s.hwStatus := rfl
@[simp] theorem dropPlane_rejectedThisTick (s : State) : (dropPlane s).rejectedThisTick = s.rejectedThisTick := rfl
@[simp] theorem dropPlane_rxLatch (s : State) : (dropPlane s).rxLatch = s.rxLatch := rfl
@[simp] theorem dropPlane_rxLatchValid (s : State) : (dropPlane s).rxLatchValid = s.rxLatchValid := rfl
@[simp] theorem dropPlane_rxFifo (s : State) : (dropPlane s).rxFifo = s.rxFifo := rfl
@[simp] theorem dropPlane_txQueue (s : State) : (dropPlane s).txQueue = s.txQueue := rfl
@[simp] theorem dropPlane_linkUp (s : State) : (dropPlane s).linkUp = s.linkUp := rfl
@[simp] theorem dropPlane_errPlane (s : State) : (dropPlane s).errPlane = s.errPlane := rfl
@[simp] theorem dropPlane_errValid (s : State) : (dropPlane s).errValid = s.errValid := rfl
@[simp] theorem dropPlane_bwm (s : State) : (dropPlane s).bwm = s.bwm := rfl
@[simp] theorem dropPlane_pwm (s : State) : (dropPlane s).pwm = s.pwm := rfl
@[simp] theorem dropPlane_hostData (s : State) : (dropPlane s).hostData = s.hostData := rfl
@[simp] theorem dropPlane_inputs (s : State) : (dropPlane s).inputs = s.inputs := rfl

/-! ### setLink -/

@[simp] theorem setLink_params (up : Bool) (s : State) : (setLink up s).params = s.params := rfl
@[simp] theorem setLink_gates (up : Bool) (s : State) : (setLink up s).gates = s.gates := rfl
@[simp] theorem setLink_arg0 (up : Bool) (s : State) : (setLink up s).arg0 = s.arg0 := rfl
@[simp] theorem setLink_arg1 (up : Bool) (s : State) : (setLink up s).arg1 = s.arg1 := rfl
@[simp] theorem setLink_arg2 (up : Bool) (s : State) : (setLink up s).arg2 = s.arg2 := rfl
@[simp] theorem setLink_arg3 (up : Bool) (s : State) : (setLink up s).arg3 = s.arg3 := rfl
@[simp] theorem setLink_result (up : Bool) (s : State) : (setLink up s).result = s.result := rfl
@[simp] theorem setLink_ret0 (up : Bool) (s : State) : (setLink up s).ret0 = s.ret0 := rfl
@[simp] theorem setLink_ret1 (up : Bool) (s : State) : (setLink up s).ret1 = s.ret1 := rfl
@[simp] theorem setLink_ret2 (up : Bool) (s : State) : (setLink up s).ret2 = s.ret2 := rfl
@[simp] theorem setLink_ret3 (up : Bool) (s : State) : (setLink up s).ret3 = s.ret3 := rfl
@[simp] theorem setLink_enable (up : Bool) (s : State) : (setLink up s).enable = s.enable := rfl
@[simp] theorem setLink_mode (up : Bool) (s : State) : (setLink up s).mode = s.mode := rfl
@[simp] theorem setLink_autoDock (up : Bool) (s : State) : (setLink up s).autoDock = s.autoDock := rfl
@[simp] theorem setLink_events (up : Bool) (s : State) : (setLink up s).events = s.events := rfl
@[simp] theorem setLink_irqEnable (up : Bool) (s : State) : (setLink up s).irqEnable = s.irqEnable := rfl
@[simp] theorem setLink_tickCount (up : Bool) (s : State) : (setLink up s).tickCount = s.tickCount := rfl
@[simp] theorem setLink_arrState (up : Bool) (s : State) : (setLink up s).arrState = s.arrState := rfl
@[simp] theorem setLink_packetAvailable (up : Bool) (s : State) : (setLink up s).packetAvailable = s.packetAvailable := rfl
@[simp] theorem setLink_arrBuf (up : Bool) (s : State) : (setLink up s).arrBuf = s.arrBuf := rfl
@[simp] theorem setLink_runSum (up : Bool) (s : State) : (setLink up s).runSum = s.runSum := rfl
@[simp] theorem setLink_receivingID (up : Bool) (s : State) : (setLink up s).receivingID = s.receivingID := rfl
@[simp] theorem setLink_arrivalStatus (up : Bool) (s : State) : (setLink up s).arrivalStatus = s.arrivalStatus := rfl
@[simp] theorem setLink_departureStatus (up : Bool) (s : State) : (setLink up s).departureStatus = s.departureStatus := rfl
@[simp] theorem setLink_tax (up : Bool) (s : State) : (setLink up s).tax = s.tax := rfl
@[simp] theorem setLink_sending (up : Bool) (s : State) : (setLink up s).sending = s.sending := rfl
@[simp] theorem setLink_txBuf (up : Bool) (s : State) : (setLink up s).txBuf = s.txBuf := rfl
@[simp] theorem setLink_txChunk (up : Bool) (s : State) : (setLink up s).txChunk = s.txChunk := rfl
@[simp] theorem setLink_txID (up : Bool) (s : State) : (setLink up s).txID = s.txID := rfl
@[simp] theorem setLink_txOwner (up : Bool) (s : State) : (setLink up s).txOwner = s.txOwner := rfl
@[simp] theorem setLink_hwStatus (up : Bool) (s : State) : (setLink up s).hwStatus = s.hwStatus := rfl
@[simp] theorem setLink_rejectedThisTick (up : Bool) (s : State) : (setLink up s).rejectedThisTick = s.rejectedThisTick := rfl
@[simp] theorem setLink_rxLatch (up : Bool) (s : State) : (setLink up s).rxLatch = s.rxLatch := rfl
@[simp] theorem setLink_rxLatchValid (up : Bool) (s : State) : (setLink up s).rxLatchValid = s.rxLatchValid := rfl
@[simp] theorem setLink_rxFifo (up : Bool) (s : State) : (setLink up s).rxFifo = s.rxFifo := rfl
@[simp] theorem setLink_txQueue (up : Bool) (s : State) : (setLink up s).txQueue = s.txQueue := rfl
@[simp] theorem setLink_errPlane (up : Bool) (s : State) : (setLink up s).errPlane = s.errPlane := rfl
@[simp] theorem setLink_errValid (up : Bool) (s : State) : (setLink up s).errValid = s.errValid := rfl
@[simp] theorem setLink_bwm (up : Bool) (s : State) : (setLink up s).bwm = s.bwm := rfl
@[simp] theorem setLink_pwm (up : Bool) (s : State) : (setLink up s).pwm = s.pwm := rfl
@[simp] theorem setLink_hostData (up : Bool) (s : State) : (setLink up s).hostData = s.hostData := rfl
@[simp] theorem setLink_inputs (up : Bool) (s : State) : (setLink up s).inputs = s.inputs := rfl

/-! ### endTick -/

@[simp] theorem endTick_params (s : State) : (endTick s).params = s.params := rfl
@[simp] theorem endTick_gates (s : State) : (endTick s).gates = s.gates := rfl
@[simp] theorem endTick_arg0 (s : State) : (endTick s).arg0 = s.arg0 := rfl
@[simp] theorem endTick_arg1 (s : State) : (endTick s).arg1 = s.arg1 := rfl
@[simp] theorem endTick_arg2 (s : State) : (endTick s).arg2 = s.arg2 := rfl
@[simp] theorem endTick_arg3 (s : State) : (endTick s).arg3 = s.arg3 := rfl
@[simp] theorem endTick_result (s : State) : (endTick s).result = s.result := rfl
@[simp] theorem endTick_ret0 (s : State) : (endTick s).ret0 = s.ret0 := rfl
@[simp] theorem endTick_ret1 (s : State) : (endTick s).ret1 = s.ret1 := rfl
@[simp] theorem endTick_ret2 (s : State) : (endTick s).ret2 = s.ret2 := rfl
@[simp] theorem endTick_ret3 (s : State) : (endTick s).ret3 = s.ret3 := rfl
@[simp] theorem endTick_enable (s : State) : (endTick s).enable = s.enable := rfl
@[simp] theorem endTick_mode (s : State) : (endTick s).mode = s.mode := rfl
@[simp] theorem endTick_autoDock (s : State) : (endTick s).autoDock = s.autoDock := rfl
@[simp] theorem endTick_events (s : State) : (endTick s).events = s.events := rfl
@[simp] theorem endTick_irqEnable (s : State) : (endTick s).irqEnable = s.irqEnable := rfl
@[simp] theorem endTick_arrState (s : State) : (endTick s).arrState = s.arrState := rfl
@[simp] theorem endTick_packetAvailable (s : State) : (endTick s).packetAvailable = s.packetAvailable := rfl
@[simp] theorem endTick_arrBuf (s : State) : (endTick s).arrBuf = s.arrBuf := rfl
@[simp] theorem endTick_runSum (s : State) : (endTick s).runSum = s.runSum := rfl
@[simp] theorem endTick_receivingID (s : State) : (endTick s).receivingID = s.receivingID := rfl
@[simp] theorem endTick_arrivalStatus (s : State) : (endTick s).arrivalStatus = s.arrivalStatus := rfl
@[simp] theorem endTick_departureStatus (s : State) : (endTick s).departureStatus = s.departureStatus := rfl
@[simp] theorem endTick_tax (s : State) : (endTick s).tax = s.tax := rfl
@[simp] theorem endTick_sending (s : State) : (endTick s).sending = s.sending := rfl
@[simp] theorem endTick_txBuf (s : State) : (endTick s).txBuf = s.txBuf := rfl
@[simp] theorem endTick_txChunk (s : State) : (endTick s).txChunk = s.txChunk := rfl
@[simp] theorem endTick_txID (s : State) : (endTick s).txID = s.txID := rfl
@[simp] theorem endTick_txOwner (s : State) : (endTick s).txOwner = s.txOwner := rfl
@[simp] theorem endTick_rejectedThisTick (s : State) : (endTick s).rejectedThisTick = s.rejectedThisTick := rfl
@[simp] theorem endTick_rxLatch (s : State) : (endTick s).rxLatch = s.rxLatch := rfl
@[simp] theorem endTick_rxLatchValid (s : State) : (endTick s).rxLatchValid = s.rxLatchValid := rfl
@[simp] theorem endTick_rxFifo (s : State) : (endTick s).rxFifo = s.rxFifo := rfl
@[simp] theorem endTick_txQueue (s : State) : (endTick s).txQueue = s.txQueue := rfl
@[simp] theorem endTick_linkUp (s : State) : (endTick s).linkUp = s.linkUp := rfl
@[simp] theorem endTick_errPlane (s : State) : (endTick s).errPlane = s.errPlane := rfl
@[simp] theorem endTick_errValid (s : State) : (endTick s).errValid = s.errValid := rfl
@[simp] theorem endTick_bwm (s : State) : (endTick s).bwm = s.bwm := rfl
@[simp] theorem endTick_pwm (s : State) : (endTick s).pwm = s.pwm := rfl
@[simp] theorem endTick_hostData (s : State) : (endTick s).hostData = s.hostData := rfl
@[simp] theorem endTick_inputs (s : State) : (endTick s).inputs = s.inputs := rfl

/-! ### The fields the updates write -/

@[simp] theorem State.report_events (e : Event) (s : State) : (s.report e).events = s.events ||| e.mask := rfl
@[simp] theorem State.updateGate_gates (id : Byte) (f : Gate → Gate) (s : State) :
    (s.updateGate id f).gates = s.gates.map fun g => if g.conf.gateID = id then f g else g := rfl
@[simp] theorem beginPlane_arrState (c : Chunk) (s : State) : (beginPlane c s).arrState = .receiving := rfl
@[simp] theorem beginPlane_packetAvailable (c : Chunk) (s : State) : (beginPlane c s).packetAvailable = false := rfl
@[simp] theorem beginPlane_arrBuf (c : Chunk) (s : State) : (beginPlane c s).arrBuf = [c] := rfl
@[simp] theorem beginPlane_runSum (c : Chunk) (s : State) : (beginPlane c s).runSum = 0 := rfl
@[simp] theorem beginPlane_receivingID (c : Chunk) (s : State) : (beginPlane c s).receivingID = byteOf c := rfl
@[simp] theorem dropPlane_arrState (s : State) : (dropPlane s).arrState = .idle := rfl
@[simp] theorem dropPlane_arrBuf (s : State) : (dropPlane s).arrBuf = [] := rfl
@[simp] theorem dropPlane_runSum (s : State) : (dropPlane s).runSum = 0 := rfl
@[simp] theorem setLink_linkUp (up : Bool) (s : State) : (setLink up s).linkUp = up := rfl
@[simp] theorem endTick_hwStatus (s : State) : (endTick s).hwStatus = s.highway := rfl
@[simp] theorem endTick_tickCount (s : State) : (endTick s).tickCount = s.tickCount + 1 := rfl

/-- An event only adds bits (60_exceptions.md R232). -/
theorem State.report_events_mono (e : Event) (s : State) : s.events &&& (s.report e).events = s.events := by
  ext i hi
  simp only [State.report, BitVec.getElem_and, BitVec.getElem_or]
  cases s.events[i] <;> simp

/-- A conditional report is the report or nothing. -/
theorem State.reportIf_eq (c : Bool) (e : Event) (s : State) : s.reportIf c e = if c then s.report e else s := rfl

end Sys2Proof.Machine
end

