-- ==== Sys2Proof/Laws/Terminal.lean ====
section
/-! SUPPORT. What the terminal's procedures can do, each said once (43_terminal.md R142 to R153, R162). -/

namespace Sys2Proof.Machine

/-- A state that differs from another in the arrival state and EVENTS alone (10_state.md R41). -/
def ArrivalOnly (s t : State) : Prop :=
  t = { s with
    arrState := t.arrState
    packetAvailable := t.packetAvailable
    arrBuf := t.arrBuf
    runSum := t.runSum
    receivingID := t.receivingID
    arrivalStatus := t.arrivalStatus
    events := t.events }

/-- `put` refuses a duplicate, refuses when the taxiway is full, or appends (R151). -/
theorem put_cases (id : Byte) (s : State) :
    (id ∈ s.tax ∧ put id s = (.failed, s)) ∨
    (id ∉ s.tax ∧ s.tax.length = s.params.sizeOfDepartureTaxiway ∧
      put id s = (.failed, { s with departureStatus := .notEnoughSpace })) ∨
    (id ∉ s.tax ∧ s.tax.length ≠ s.params.sizeOfDepartureTaxiway ∧
      put id s = (.passed, { s with tax := s.tax ++ [id], departureStatus := .departureAvailable })) := by
  by_cases h : id ∈ s.tax
  · exact .inl ⟨h, by simp [put, isOn, h]⟩
  · by_cases hc : s.tax.length = s.params.sizeOfDepartureTaxiway
    · exact .inr (.inl ⟨h, hc, by simp [put, isOn, h, State.taxCount, hc]⟩)
    · exact .inr (.inr ⟨h, hc, by simp [put, isOn, h, State.taxCount, hc]⟩)

/-- `put` writes the taxiway and `departureStatus` alone. -/
theorem put_frame (id : Byte) (s : State) :
    (put id s).2 = { s with tax := (put id s).2.tax, departureStatus := (put id s).2.departureStatus } := by
  rcases put_cases id s with ⟨_, h⟩ | ⟨_, _, h⟩ | ⟨_, _, h⟩ <;> rw [h]

/-- `pop` takes the oldest ID or answers that there is none (R153). -/
theorem pop_cases (s : State) :
    (s.tax = [] ∧ pop s = none) ∨
    (∃ id rest, s.tax = id :: rest ∧
      pop s = some (id, { s with
        tax := rest
        departureStatus := if rest.length > 0 then .departureAvailable else .initialised })) := by
  cases h : s.tax with
  | nil => exact .inl ⟨rfl, by simp [pop, h]⟩
  | cons id rest => exact .inr ⟨id, rest, rfl, by simp [pop, h]⟩

/-- What one chunk does (R142 to R149), for every chunk and every arrival state. -/
theorem arrive_cases (c : Chunk) (s : State) :
    (1023 < c.toNat ∧ arrive c s = s) ∨
    (c.toNat ≤ 1023 ∧ s.arrState = .complete ∧
      arrive c s = { s.report .arrivalDiscarded with arrivalStatus := .overflowing }) ∨
    (c.toNat / 256 = 2 ∧ s.arrState = .idle ∧ arrive c s = beginPlane c s) ∨
    (c.toNat ≤ 1023 ∧ c.toNat / 256 ≠ 2 ∧ s.arrState = .idle ∧ arrive c s = s.report .strayChunk) ∨
    (c.toNat / 256 = 2 ∧ s.arrState = .receiving ∧ arrive c s = beginPlane c (s.report .arrivalAborted)) ∨
    (c.toNat / 256 < 2 ∧ s.arrState = .receiving ∧ s.mode = .regular ∧ arrive c s = storePayload c s) ∨
    (c.toNat / 256 < 2 ∧ s.arrState = .receiving ∧ s.mode = .rejectIncoming ∧
      arrive c s = { s with runSum := s.runSum + byteOf c }) ∨
    (c.toNat / 256 = 3 ∧ s.arrState = .receiving ∧ s.mode = .regular ∧ arrive c s = closePlane c s) ∨
    (c.toNat / 256 = 3 ∧ s.arrState = .receiving ∧ s.mode = .rejectIncoming ∧ arrive c s = closeRejected c s) := by
  by_cases hbig : 1023 < c.toNat
  · refine .inl ⟨hbig, ?_⟩
    have ht : typeOf c = none := by
      unfold typeOf
      split <;> first | rfl | omega
    simp [arrive, ht]
  · have hq : c.toNat / 256 = 0 ∨ c.toNat / 256 = 1 ∨ c.toNat / 256 = 2 ∨ c.toNat / 256 = 3 := by omega
    have hle : c.toNat ≤ 1023 := by omega
    rcases hq with hq | hq | hq | hq <;>
      cases hs : s.arrState <;> cases hm : s.mode <;>
        simp [arrive, arriveReceiving, typeOf, hq, hs, hm, hle]

/-- One chunk writes the arrival state and EVENTS alone. -/
theorem arrive_frame (c : Chunk) (s : State) : ArrivalOnly s (arrive c s) := by
  unfold ArrivalOnly
  rcases arrive_cases c s with ⟨_, h⟩ | ⟨_, _, h⟩ | ⟨_, _, h⟩ | ⟨_, _, _, h⟩ | ⟨_, _, h⟩ | ⟨_, _, _, h⟩ | ⟨_, _, _, h⟩ |
    ⟨_, _, _, h⟩ | ⟨_, _, _, h⟩ <;> rw [h]
  · rfl
  · rfl
  · rfl
  · rfl
  · unfold storePayload dropPlane; dsimp only; split <;> rfl
  · unfold closePlane dropPlane; dsimp only; split <;> rfl
  · rfl

/-- `take` writes the arrival state alone. -/
theorem takeArrival_frame (s : State) : ArrivalOnly s (takeArrival s).2 := rfl

/-- What `take` hands over and leaves (R162). -/
@[simp] theorem takeArrival_plane (s : State) : (takeArrival s).1 = s.arrBuf := rfl
@[simp] theorem takeArrival_arrState (s : State) : (takeArrival s).2.arrState = .idle := rfl
@[simp] theorem takeArrival_packetAvailable (s : State) : (takeArrival s).2.packetAvailable = false := rfl
@[simp] theorem takeArrival_arrBuf (s : State) : (takeArrival s).2.arrBuf = [] := rfl
@[simp] theorem takeArrival_runSum (s : State) : (takeArrival s).2.runSum = 0 := rfl
@[simp] theorem takeArrival_arrivalStatus (s : State) : (takeArrival s).2.arrivalStatus = .initialised := rfl

end Sys2Proof.Machine
end

