-- ==== Sys2Proof/Laws/Gate.lean ====
section
/-! SUPPORT. What docking, error planes and gate updates can do, each said once (45_gate.md R196 to R211, R220). -/

namespace Sys2Proof.Machine

/-- A state that differs from another in the gates, the taxiway, the error plane slot and EVENTS alone: what a dock may
write (45_gate.md R208). -/
def DockOnly (s t : State) : Prop :=
  t = { s with
    gates := t.gates
    tax := t.tax
    departureStatus := t.departureStatus
    errPlane := t.errPlane
    errValid := t.errValid
    events := t.events }

theorem DockOnly.refl (s : State) : DockOnly s s := rfl

theorem DockOnly.trans {s t u : State} (h : DockOnly s t) (k : DockOnly t u) : DockOnly s u := by
  unfold DockOnly at *
  rw [h] at k
  exact k

theorem DockOnly.report (e : Event) (s : State) : DockOnly s (s.report e) := rfl

theorem DockOnly.updateGate (id : Byte) (f : Gate → Gate) (s : State) : DockOnly s (s.updateGate id f) := rfl

theorem DockOnly.put (id : Byte) (s : State) : DockOnly s (put id s).2 := by
  rw [put_frame]; rfl

/-- `sendError` drops the error plane, or queues it (R211). -/
theorem sendError_cases (e : ResultCode) (s : State) :
    ((8 ∈ s.tax ∨ s.tax.length = s.params.sizeOfDepartureTaxiway) ∧ sendError e s = s.report .errorPlaneDropped) ∨
    (8 ∉ s.tax ∧ s.tax.length ≠ s.params.sizeOfDepartureTaxiway ∧
      sendError e s =
        ({ s with
          errPlane := errorPlane s.params.divPayload e
          errValid := true
          tax := s.tax ++ [8]
          departureStatus := .departureAvailable } : State).report .errorPlaneSent) := by
  by_cases h : 8#8 ∈ s.tax
  · exact .inl ⟨.inl h, by simp [sendError, isOn, h]⟩
  · by_cases hc : s.tax.length = s.params.sizeOfDepartureTaxiway
    · exact .inl ⟨.inr hc, by simp [sendError, State.taxCount, hc]⟩
    · exact .inr ⟨h, hc, by simp [sendError, put, isOn, State.taxCount, hc, h]⟩

theorem DockOnly.sendError (e : ResultCode) (s : State) : DockOnly s (sendError e s) := by
  rcases sendError_cases e s with ⟨_, h⟩ | ⟨_, _, h⟩ <;> rw [h] <;> rfl

theorem DockOnly.masterDock (g : Gate) (L : List (List Byte)) (s : State) : DockOnly s (masterDock g L s).2 := by
  unfold Machine.masterDock; split <;> rfl

theorem DockOnly.answerFailed (id : Byte) (s : State) : DockOnly s (answerFailed id s).2 := rfl

theorem DockOnly.queueAnswer (g : Gate) (A : List (List Byte)) (s : State) : DockOnly s (queueAnswer g A s).2 := by
  unfold Machine.queueAnswer
  split
  · rfl
  · split
    · rfl
    · have hp := DockOnly.put g.conf.gateID s
      split
      · next h => rw [h] at hp; exact hp.trans ((DockOnly.updateGate _ _ _).trans (DockOnly.report _ _))
      · next h => rw [h] at hp; exact hp.trans (DockOnly.answerFailed _ _)

theorem DockOnly.slaveDock (g : Gate) (L : List (List Byte)) (s : State) : DockOnly s (slaveDock g L s).2 := by
  unfold Machine.slaveDock
  split
  · exact DockOnly.sendError _ _
  · dsimp only
    split
    · rfl
    · exact (DockOnly.updateGate _ _ _).trans (DockOnly.queueAnswer _ _ _)

theorem DockOnly.dockAtGate (g : Gate) (P : List Chunk) (s : State) : DockOnly s (dockAtGate g P s).2 := by
  unfold Machine.dockAtGate
  split
  · exact DockOnly.sendError _ _
  · split
    · exact DockOnly.sendError _ _
    · split
      · exact DockOnly.sendError _ _
      · split
        · exact DockOnly.masterDock _ _ _
        · exact DockOnly.slaveDock _ _ _

theorem DockOnly.dockError (P : List Chunk) (s : State) : DockOnly s (dockError P s).2 := by
  unfold Machine.dockError
  split
  · rfl
  · split
    · rfl
    · split
      · rfl
      · split <;> rfl

/-- A dock writes the gates, the taxiway, the error plane slot and EVENTS alone (R208). -/
theorem dock_frame (P : List Chunk) (s : State) : DockOnly s (dock P s).2 := by
  unfold dock
  split
  · exact DockOnly.dockError _ _
  · split
    · exact DockOnly.sendError _ _
    · exact DockOnly.dockAtGate _ _ _

/-- One chunk with its dock is the chunk alone, or the chunk and the dock of the plane it completes (43_terminal.md
R158). -/
theorem arriveAndDock_cases (c : Chunk) (s : State) :
    (¬((arrive c s).arrState = .complete ∧ (arrive c s).autoDock = true) ∧ arriveAndDock c s = arrive c s) ∨
    ((arrive c s).arrState = .complete ∧ (arrive c s).autoDock = true ∧
      arriveAndDock c s = (dock (arrive c s).arrBuf (takeArrival (arrive c s)).2).2) := by
  by_cases h : (arrive c s).arrState = .complete ∧ (arrive c s).autoDock = true
  · exact .inr ⟨h.1, h.2, by rw [arriveAndDock, if_pos h]; rfl⟩
  · exact .inl ⟨h, by rw [arriveAndDock, if_neg h]⟩

/-- A state that differs from another in the arrival state and in what a dock may write alone. -/
def ReceptionOnly (s t : State) : Prop :=
  t = { s with
    gates := t.gates
    tax := t.tax
    departureStatus := t.departureStatus
    errPlane := t.errPlane
    errValid := t.errValid
    events := t.events
    arrState := t.arrState
    packetAvailable := t.packetAvailable
    arrBuf := t.arrBuf
    runSum := t.runSum
    receivingID := t.receivingID
    arrivalStatus := t.arrivalStatus }

/-- One chunk with its dock writes the arrival state and what a dock writes alone. -/
theorem arriveAndDock_frame (c : Chunk) (s : State) : ReceptionOnly s (arriveAndDock c s) := by
  have ha := arrive_frame c s
  unfold ArrivalOnly at ha
  rcases arriveAndDock_cases c s with ⟨_, h⟩ | ⟨_, _, h⟩
  · rw [h, ReceptionOnly, ha]
  · have hd := dock_frame (arrive c s).arrBuf (takeArrival (arrive c s)).2
    unfold DockOnly at hd
    rw [h, ReceptionOnly, hd, takeArrival, ha]

/-! ### Reception depends on and writes a few fields alone -/

/-- The state `u` with the fields of `s` that the arrival of a chunk and a dock read or write. Every other field of `u`
(the host registers, the memories, the runway, the FIFOs) is as it is. -/
def State.withView (s u : State) : State :=
  { u with
    params := s.params
    gates := s.gates
    mode := s.mode
    autoDock := s.autoDock
    events := s.events
    arrState := s.arrState
    packetAvailable := s.packetAvailable
    arrBuf := s.arrBuf
    runSum := s.runSum
    receivingID := s.receivingID
    arrivalStatus := s.arrivalStatus
    departureStatus := s.departureStatus
    tax := s.tax
    errPlane := s.errPlane
    errValid := s.errValid }

section
variable (u s : State)

@[simp] theorem State.withView_params : (s.withView u).params = s.params := rfl
@[simp] theorem State.withView_tax : (s.withView u).tax = s.tax := rfl
@[simp] theorem State.withView_arrState : (s.withView u).arrState = s.arrState := rfl
@[simp] theorem State.withView_mode : (s.withView u).mode = s.mode := rfl
@[simp] theorem State.withView_gate? (id : Byte) : (s.withView u).gate? id = s.gate? id := rfl

theorem put_withView (id : Byte) : put id (s.withView u) = ((put id s).1, (put id s).2.withView u) := by
  rcases put_cases id s with ⟨h, e⟩ | ⟨h, hc, e⟩ | ⟨h, hc, e⟩ <;> rw [e] <;>
    simp [put, isOn, State.taxCount, *] <;> rfl

theorem sendError_withView (e : ResultCode) : sendError e (s.withView u) = (sendError e s).withView u := by
  rcases sendError_cases e s with ⟨h, k⟩ | ⟨h, hc, k⟩ <;> rw [k]
  · rcases sendError_cases e (s.withView u) with ⟨_, k'⟩ | ⟨h', hc', _⟩
    · rw [k']; rfl
    · exact absurd h (not_or.mpr ⟨h', hc'⟩)
  · rcases sendError_cases e (s.withView u) with ⟨h', _⟩ | ⟨_, _, k'⟩
    · exact absurd h' (not_or.mpr ⟨h, hc⟩)
    · rw [k']; rfl

theorem queueAnswer_withView (g : Gate) (A : List (List Byte)) :
    queueAnswer g A (s.withView u) = ((queueAnswer g A s).1, (queueAnswer g A s).2.withView u) := by
  unfold queueAnswer
  rw [State.withView_params, put_withView]
  cases build s.params.divPayload g.conf A with
  | none => rfl
  | some P =>
    dsimp only
    by_cases h : typesOK A g.conf.departTypes = false
    · rw [if_pos h, if_pos h]; rfl
    · rw [if_neg h, if_neg h]
      rcases put g.conf.gateID s with ⟨code, t⟩
      cases code <;> rfl

theorem slaveDock_withView (g : Gate) (L : List (List Byte)) :
    slaveDock g L (s.withView u) = ((slaveDock g L s).1, (slaveDock g L s).2.withView u) := by
  unfold slaveDock
  rw [State.withView_params, sendError_withView]
  by_cases h : g.status ≠ .cleaned
  · rw [if_pos h, if_pos h]
  · rw [if_neg h, if_neg h]
    cases answerOf s.params g.conf.gateID L with
    | none => rfl
    | some A => exact queueAnswer_withView u (s.updateGate g.conf.gateID fun g => { g with arrParams := L }) g A

theorem masterDock_withView (g : Gate) (L : List (List Byte)) :
    masterDock g L (s.withView u) = ((masterDock g L s).1, (masterDock g L s).2.withView u) := by
  unfold masterDock
  by_cases h : g.status ≠ .awaitingArrival
  · rw [if_pos h, if_pos h]; rfl
  · rw [if_neg h, if_neg h]; rfl

theorem dockAtGate_withView (g : Gate) (P : List Chunk) :
    dockAtGate g P (s.withView u) = ((dockAtGate g P s).1, (dockAtGate g P s).2.withView u) := by
  unfold dockAtGate
  simp only [State.withView_params, sendError_withView, masterDock_withView, slaveDock_withView]
  cases analyzePlane s.params.supported P with
  | error _ => rfl
  | ok _ =>
    dsimp only
    by_cases hn : P.length > g.conf.maxSizeOfPlane
    · rw [if_pos hn, if_pos hn]
    · by_cases ht : typesOK (planeParams P) g.conf.arriveTypes = false
      · rw [if_neg hn, if_neg hn, if_pos ht, if_pos ht]
      · rw [if_neg hn, if_neg hn, if_neg ht, if_neg ht]
        cases s.params.role <;> rfl

theorem dockError_withView (P : List Chunk) :
    dockError P (s.withView u) = ((dockError P s).1, (dockError P s).2.withView u) := by
  unfold dockError
  simp only [State.withView_params, State.withView_gate?]
  cases s.gate? 8 with
  | none => rfl
  | some g8 =>
    dsimp only
    cases analyzePlane s.params.supported P with
    | error _ => rfl
    | ok _ =>
      dsimp only
      by_cases hn : P.length > g8.conf.maxSizeOfPlane
      · rw [if_pos hn, if_pos hn]
      · by_cases ht : typesOK (planeParams P) g8.conf.arriveTypes = false
        · rw [if_neg hn, if_neg hn, if_pos ht, if_pos ht]
        · rw [if_neg hn, if_neg hn, if_neg ht, if_neg ht]; rfl

/-- A dock depends on these fields alone, and writes no other (45_gate.md R208). -/
theorem dock_withView (P : List Chunk) : dock P (s.withView u) = ((dock P s).1, (dock P s).2.withView u) := by
  unfold dock
  simp only [State.withView_gate?, sendError_withView, dockError_withView, dockAtGate_withView]
  split
  · rfl
  · cases s.gate? (planeID P) <;> rfl

/-- So does the arrival of a chunk (43_terminal.md R142 to R149). -/
theorem arrive_withView (c : Chunk) : arrive c (s.withView u) = (arrive c s).withView u := by
  unfold arrive
  cases typeOf c with
  | none => rfl
  | some t =>
    dsimp only
    rw [State.withView_arrState]
    cases s.arrState with
    | idle => cases t <;> rfl
    | complete => rfl
    | receiving =>
      dsimp only
      unfold arriveReceiving
      rw [State.withView_mode]
      have hstore : storePayload c (s.withView u) = (storePayload c s).withView u := by
        dsimp only [storePayload]
        split <;> split <;> rename_i h k <;> first | rfl | exact absurd h k | exact absurd k h
      have hclose : closePlane c (s.withView u) = (closePlane c s).withView u := by
        dsimp only [closePlane]
        split <;> split <;> rename_i h k <;> first | rfl | exact absurd h k | exact absurd k h
      cases t <;> cases s.mode <;> first | rfl | exact hstore | exact hclose

/-- So does one chunk with its dock (43_terminal.md R158, 44_runway.md R175). -/
theorem arriveAndDock_withView (c : Chunk) :
    arriveAndDock c (s.withView u) = (arriveAndDock c s).withView u := by
  unfold arriveAndDock
  rw [arrive_withView]
  by_cases h : (arrive c s).arrState = .complete ∧ (arrive c s).autoDock = true
  · have hd : dockArrival ((arrive c s).withView u) = (dockArrival (arrive c s)).withView u :=
      congrArg Prod.snd (dock_withView u (takeArrival (arrive c s)).2 (arrive c s).arrBuf)
    rw [if_pos h]
    exact (if_pos h).trans hd
  · rw [if_neg h]
    exact if_neg h

end

/-! ### A dock clears no event (10_state.md R28, R36) -/

/-- No EVENTS bit that is 1 before is 0 after. -/
def EventsKept (s t : State) : Prop := s.events &&& t.events = s.events

theorem EventsKept.of_or {s t : State} (m : BitVec 19) (h : t.events = s.events ||| m) : EventsKept s t := by
  rw [EventsKept, h]
  exact BitVec.eq_of_getLsbD_eq fun i _ => by simpa using fun k => .inl k

theorem EventsKept.refl (s : State) : EventsKept s s := BitVec.and_self

theorem EventsKept.trans {s t u : State} (h : EventsKept s t) (k : EventsKept t u) : EventsKept s u := by
  unfold EventsKept at *
  rw [← h, BitVec.and_assoc, k]

/-- An event reported before is still reported. -/
theorem EventsKept.getLsbD {s t : State} (h : EventsKept s t) {i : Nat} (hs : s.events.getLsbD i = true) :
    t.events.getLsbD i = true := by
  rw [← h, BitVec.getLsbD_and, Bool.and_eq_true] at hs
  exact hs.2

theorem EventsKept.put (id : Byte) (s : State) : EventsKept s (put id s).2 := by rw [put_frame]; exact .refl s

theorem EventsKept.sendError (e : ResultCode) (s : State) : EventsKept s (sendError e s) := by
  rcases sendError_cases e s with ⟨_, h⟩ | ⟨_, _, h⟩ <;> rw [h] <;> exact .of_or _ rfl

theorem EventsKept.queueAnswer (g : Gate) (A : List (List Byte)) (s : State) : EventsKept s (queueAnswer g A s).2 := by
  unfold Machine.queueAnswer
  split
  · exact .of_or _ rfl
  · split
    · exact .of_or _ rfl
    · have hp := EventsKept.put g.conf.gateID s
      split <;> next h => rw [h] at hp; exact hp.trans (.of_or _ rfl)

theorem EventsKept.slaveDock (g : Gate) (L : List (List Byte)) (s : State) : EventsKept s (slaveDock g L s).2 := by
  unfold Machine.slaveDock
  split
  · exact .sendError _ _
  · dsimp only
    split
    · exact .refl s
    · exact EventsKept.trans (t := s.updateGate g.conf.gateID fun g => { g with arrParams := L }) (.refl s)
        (.queueAnswer _ _ _)

theorem EventsKept.masterDock (g : Gate) (L : List (List Byte)) (s : State) : EventsKept s (masterDock g L s).2 := by
  unfold Machine.masterDock; split <;> exact .of_or _ rfl

theorem EventsKept.dockError (P : List Chunk) (s : State) : EventsKept s (dockError P s).2 := by
  unfold Machine.dockError
  repeat' split
  all_goals first | exact .refl s | exact .of_or _ rfl

/-- A dock clears no event. -/
theorem EventsKept.dock (P : List Chunk) (s : State) : EventsKept s (dock P s).2 := by
  unfold Machine.dock
  split
  · exact .dockError P s
  · split
    · exact .sendError _ _
    · unfold dockAtGate
      repeat' split
      all_goals first | exact .sendError _ _ | exact .masterDock _ _ _ | exact .slaveDock _ _ _

/-! ### The configuration of the gates is never written (10_state.md R24) -/

/-- An update that keeps a gate's entry of the gate table keeps the table. -/
theorem updateGate_confs (id : Byte) (f : Gate → Gate) (s : State) (hf : ∀ g, (f g).conf = g.conf) :
    (s.updateGate id f).gates.map (·.conf) = s.gates.map (·.conf) := by
  simp only [State.updateGate_gates, List.map_map]
  apply List.map_congr_left
  intro g _
  simp only [Function.comp_apply]
  split
  · exact hf g
  · rfl

theorem put_gates (id : Byte) (s : State) : (put id s).2.gates = s.gates := by rw [put_frame]

theorem sendError_gates (e : ResultCode) (s : State) : (sendError e s).gates = s.gates := by
  rcases sendError_cases e s with ⟨_, h⟩ | ⟨_, _, h⟩ <;> rw [h] <;> rfl

theorem queueAnswer_confs (g : Gate) (A : List (List Byte)) (s : State) :
    (queueAnswer g A s).2.gates.map (·.conf) = s.gates.map (·.conf) := by
  have hfail : ∀ id (t : State), (answerFailed id t).2.gates.map (·.conf) = t.gates.map (·.conf) := fun id t =>
    updateGate_confs id _ t fun _ => rfl
  unfold queueAnswer
  split
  · exact hfail _ _
  · split
    · exact hfail _ _
    · have hp := put_gates g.conf.gateID s
      split
      · next h =>
        rw [h] at hp
        rw [State.report_gates, updateGate_confs _ (Gate.requested _) _ (fun _ => rfl), hp]
      · next h => rw [h] at hp; rw [hfail, hp]

/-- A dock keeps every gate's entry of the gate table. -/
theorem dock_confs (P : List Chunk) (s : State) : (dock P s).2.gates.map (·.conf) = s.gates.map (·.conf) := by
  unfold dock
  split
  · unfold dockError
    repeat' split
    all_goals first | rfl | exact updateGate_confs _ _ _ fun _ => rfl
  · split
    · rw [sendError_gates]
    · unfold dockAtGate
      split
      · rw [sendError_gates]
      · split
        · rw [sendError_gates]
        · split
          · rw [sendError_gates]
          · split
            · unfold masterDock
              split
              · rfl
              · exact updateGate_confs _ _ _ fun _ => rfl
            · unfold slaveDock
              split
              · rw [sendError_gates]
              · dsimp only
                split
                · exact updateGate_confs _ _ _ fun _ => rfl
                · rw [queueAnswer_confs]; exact updateGate_confs _ _ _ fun _ => rfl

/-- Reception keeps every gate's entry of the gate table. -/
theorem arriveAndDock_confs (c : Chunk) (s : State) :
    (arriveAndDock c s).gates.map (·.conf) = s.gates.map (·.conf) := by
  have ha : (arrive c s).gates = s.gates := by rw [arrive_frame c s]
  rcases arriveAndDock_cases c s with ⟨_, h⟩ | ⟨_, _, h⟩
  · rw [h, ha]
  · rw [h, dock_confs, show (takeArrival (arrive c s)).2.gates = s.gates from ha]

/-- An update of a gate in a tick keeps its entry of the gate table (R220). -/
@[simp] theorem Gate.update_conf (n : Nat) (g : Gate) : (g.update n).conf = g.conf := by
  unfold Gate.update; split <;> rfl

/-- The gate updates of a tick write the gates and EVENTS alone (R220). -/
theorem updateGates_frame (s : State) :
    updateGates s = { s with gates := (updateGates s).gates, events := (updateGates s).events } := by
  unfold updateGates State.reportIf; split <;> rfl

/-- The gates after the gate updates of a tick. -/
@[simp] theorem updateGates_gates (s : State) :
    (updateGates s).gates = s.gates.map (Gate.update s.params.tickMS) := by
  unfold updateGates State.reportIf; split <;> rfl

theorem updateGates_confs (s : State) : (updateGates s).gates.map (·.conf) = s.gates.map (·.conf) := by
  rw [updateGates_gates, List.map_map]
  exact List.map_congr_left fun g _ => Gate.update_conf _ g

end Sys2Proof.Machine
end

