-- ==== Sys2Proof/Laws/Packet.lean ====
section
/-! SUPPORT. What the operations over ranges, planes, records and the gate table do, each said once in the words of
Safety.lean (20_memory.md R67, R69; 42_packet.md R117, R118; 45_gate.md R193 to R195, R202, R213). -/

namespace Sys2Proof.Machine

variable {w : Nat}

/-! ### Ranges and memory -/

theorem argRange_addr (v : Word) : (argRange v).addr = rangeAddr v := by simp [argRange, rangeAddr]

theorem argRange_len (v : Word) : (argRange v).len = rangeLen v := by
  have := v.isLt
  simp [argRange, rangeLen, Nat.shiftRight_eq_div_pow]
  omega

/-- The machine's range check is that of R69. -/
theorem fits_eq_true_iff (v : Word) (size : Nat) : (argRange v).fits size = true ↔ InRange v size := by
  simp [Range.fits, InRange, argRange_addr, argRange_len]

theorem fits_eq_false_iff (v : Word) (size : Nat) : (argRange v).fits size = false ↔ ¬ InRange v size := by
  rw [← fits_eq_true_iff]; simp

theorem argByte_eq (v : Word) : argByte v = BitVec.ofNat 8 v.toNat := by
  apply BitVec.eq_of_toNat_eq; simp [argByte]

theorem Memory.cells_add (m : Memory w) (a n k : Nat) :
    Memory.cells m a (n + k) = Memory.cells m a n ++ Memory.cells m (a + n) k := by
  simp [Memory.cells, List.range_add, Function.comp_def, Nat.add_assoc]

/-- Values held are the cells read. -/
theorem cells_of_holds (m : Memory w) (a : Nat) (vs : List (BitVec w)) (h : Holds m a vs) :
    Memory.cells m a vs.length = vs.map some := (Memory.cells_eq_map_some _ _ _ _).mpr ⟨rfl, h⟩

theorem readRange_of_holds (m : Memory w) (a : Nat) (vs : List (BitVec w)) (h : Holds m a vs) :
    Memory.readRange m a vs.length = some vs := (Memory.readRange_eq_some _ _ _ _).mpr ⟨rfl, h⟩

/-- Writing a range stores it and changes nothing else. -/
theorem stored_writeRange (m : Memory w) (a : Nat) (vs : List (BitVec w)) :
    Stored m (Memory.writeRange m a vs) a vs := fun b => Memory.read_writeRange m a vs b

/-- A command that reads goes on with the cells or ends in UNINIT_READ. -/
theorem reading_cases {α : Type} (cells : Option α) (go : α → Answer) :
    (cells = none ∧ reading cells go = .fault .uninitRead) ∨ ∃ v, cells = some v ∧ reading cells go = go v := by
  cases cells with
  | none => exact .inl ⟨rfl, rfl⟩
  | some v => exact .inr ⟨v, rfl, rfl⟩

/-! ### Planes -/

/-- The machine's checksum is the sum of the payloads mod 256 (R117). -/
theorem cks_toNat (S : List Chunk) : (cks S).toNat = sum8 S := by
  induction S with
  | nil => simp [sum8]
  | cons c S ih =>
    rw [cks_cons, BitVec.toNat_add, ih, byteOf_toNat]
    simp [sum8]

theorem planeOf_eq_makePlane (id : Byte) (S : List Chunk) : planeOf id S = makePlane id S := by
  unfold planeOf makePlane startChunk encodeChunk
  rw [cks_toNat]
  rfl

theorem segmentOf_eq_paramSegment (d : Byte) (B : List Byte) : segmentOf d B = paramSegment d B := by
  simp [segmentOf, paramSegment, encodeChunk, ChunkType.index]

/-- The scan over a range that begins with a plane finds its size, and reading that many cells gives the plane
(R118). -/
theorem totalSize_of_scansAs {s : State} {v : Word} {first : Chunk} {mid : List Chunk} {last : Chunk}
    (h : ScansAs s v first mid last) :
    totalSize (s.pwm.cells (rangeAddr v) (rangeLen v)) = some (.ok (mid.length + 2)) ∧
      s.pwm.readRange (rangeAddr v) (mid.length + 2) = some (first :: (mid ++ [last])) ∧
      (s.pwm.cells (rangeAddr v) (rangeLen v)).take (mid.length + 2) = (first :: (mid ++ [last])).map some := by
  obtain ⟨_, hlen, hfirst, hmid, hlast, hheld⟩ := h
  have hl : (first :: (mid ++ [last])).length = mid.length + 2 := by simp
  have hc := cells_of_holds _ _ _ hheld
  have hr := readRange_of_holds _ _ _ hheld
  rw [hl] at hc hr
  have he : rangeLen v = (mid.length + 2) + (rangeLen v - (mid.length + 2)) := by omega
  refine ⟨?_, hr, ?_⟩
  · rw [he, Memory.cells_add, hc]
    simpa using totalSize_plane first mid last
      (s.pwm.cells (rangeAddr v + (mid.length + 2)) (rangeLen v - (mid.length + 2))) hfirst hmid hlast
  · rw [he, Memory.cells_add, hc, List.take_append_of_le_length (by simp), List.take_of_length_le (by simp)]

/-- The scan over a range that holds no plane ends with the result code of R118. -/
theorem totalSize_of_scanFails {s : State} {v : Word} {code : ResultCode} (h : ScanFails s v code) :
    totalSize (s.pwm.cells (rangeAddr v) (rangeLen v)) = some (.error code) := by
  rcases h.2 with ⟨rfl, h0⟩ | ⟨first, rfl, h0, hr, hne⟩ | ⟨first, mid, rfl, hf, hm, hh, hcase⟩
  · rw [h0]; rfl
  · obtain ⟨k, hk⟩ : ∃ k, rangeLen v = 1 + k := ⟨rangeLen v - 1, by omega⟩
    have h1 : s.pwm.cells (rangeAddr v) 1 = [some first] := by simp [Memory.cells, hr]
    rw [hk, Memory.cells_add, h1]
    simp only [List.singleton_append, totalSize]
    rw [if_neg (by rw [typeOf_start_iff]; exact hne)]
  · have hc := cells_of_holds _ _ _ hh
    rw [show (first :: mid).length = mid.length + 1 by simp] at hc
    rcases hcase with he | ⟨bad, hlt, hbad, hrd⟩
    · rw [← he, hc]
      simp only [List.map_cons, totalSize]
      have hs := scanCheck_append mid [] 1 hm
      rw [List.append_nil] at hs
      rw [if_pos ((typeOf_start_iff _).mpr hf), hs]; rfl
    · obtain ⟨k, hk⟩ : ∃ k, rangeLen v = (mid.length + 1) + (1 + k) := ⟨rangeLen v - (mid.length + 2), by omega⟩
      have h1 : s.pwm.cells (rangeAddr v + (mid.length + 1)) 1 = [some bad] := by simp [Memory.cells]; exact hrd
      rw [hk, Memory.cells_add, hc, Memory.cells_add, h1]
      simp only [List.map_cons, List.cons_append, totalSize, List.nil_append]
      rw [if_pos ((typeOf_start_iff _).mpr hf), scanCheck_append mid _ 1 hm, scanCheck]
      simp [isChunk, hbad]

/-- A command over a plane runs on the plane the scan finds. -/
theorem withPlane_of_scansAs {s : State} {first : Chunk} {mid : List Chunk} {last : Chunk} (go : List Chunk → Answer)
    (h : ScansAs s s.arg0 first mid last) : withPlane s go = go (first :: (mid ++ [last])) := by
  obtain ⟨hsize, hplane, _⟩ := totalSize_of_scansAs h
  unfold withPlane
  dsimp only
  rw [argRange_addr, argRange_len, hsize, if_neg (by rw [fits_eq_false_iff]; simp [h.1])]
  simp only [reading, hplane]

/-- A command over a plane ends with the code of the scan when there is none. -/
theorem withPlane_of_scanFails {s : State} {code : ResultCode} (go : List Chunk → Answer)
    (h : ScanFails s s.arg0 code) : withPlane s go = finish code s := by
  unfold withPlane
  dsimp only
  rw [argRange_addr, argRange_len, totalSize_of_scanFails h, if_neg (by rw [fits_eq_false_iff]; simp [h.1])]
  rfl

/-- A command over a plane fails on a range outside PWM. -/
theorem withPlane_of_not_inRange {s : State} (go : List Chunk → Answer) (h : ¬ InRange s.arg0 s.params.pwmSize) :
    withPlane s go = finish .failed s := by
  unfold withPlane
  dsimp only
  rw [if_pos (by rw [fits_eq_false_iff]; exact h)]

/-- The scan over a range meets an unwritten cell before it stops (R67, R118). -/
theorem totalSize_of_scanMeetsUnwritten {s : State} {v : Word} (h : ScanMeetsUnwritten s v) :
    totalSize (s.pwm.cells (rangeAddr v) (rangeLen v)) = none := by
  rcases h.2 with ⟨h0, hr⟩ | ⟨first, mid, hf, hm, hh, hlt, hr⟩
  · obtain ⟨k, hk⟩ : ∃ k, rangeLen v = 1 + k := ⟨rangeLen v - 1, by omega⟩
    have h1 : s.pwm.cells (rangeAddr v) 1 = [none] := by simp [Memory.cells, hr]
    rw [hk, Memory.cells_add, h1]; rfl
  · have hc := cells_of_holds _ _ _ hh
    rw [show (first :: mid).length = mid.length + 1 by simp] at hc
    obtain ⟨k, hk⟩ : ∃ k, rangeLen v = (mid.length + 1) + (1 + k) := ⟨rangeLen v - (mid.length + 2), by omega⟩
    have h1 : s.pwm.cells (rangeAddr v + (mid.length + 1)) 1 = [none] := by simp [Memory.cells]; exact hr
    rw [hk, Memory.cells_add, hc, Memory.cells_add, h1]
    simp only [List.map_cons, List.cons_append, totalSize, List.nil_append]
    rw [if_pos ((typeOf_start_iff _).mpr hf), scanCheck_append mid _ 1 hm, scanCheck]

/-- A command over a plane is UNINIT_READ where the scan meets an unwritten cell. -/
theorem withPlane_of_scanMeetsUnwritten {s : State} (go : List Chunk → Answer) (h : ScanMeetsUnwritten s s.arg0) :
    withPlane s go = .fault .uninitRead := by
  unfold withPlane
  dsimp only
  rw [argRange_addr, argRange_len, totalSize_of_scanMeetsUnwritten h, if_neg (by rw [fits_eq_false_iff]; simp [h.1])]
  rfl

/-- `analyze` checks the plane the scan finds (R120). -/
theorem analyzeCells_of_scansAs {s : State} {v : Word} {first : Chunk} {mid : List Chunk} {last : Chunk}
    (supported : List Byte) (h : ScansAs s v first mid last) :
    analyzeCells supported (s.pwm.cells (rangeAddr v) (rangeLen v)) =
      some (checkPlane supported (first :: (mid ++ [last]))) := by
  obtain ⟨hsize, _, htake⟩ := totalSize_of_scansAs h
  have hid : ∀ P : List Chunk, (P.map some).filterMap id = P := by intro P; induction P <;> simp_all
  simp only [analyzeCells, hsize, htake, hid]

/-! ### Parameters and gates -/

theorem typeOK_iff (B : List Byte) (t : TypeTag) : typeOK B t = true ↔ ParamOK B t := by
  cases t <;> simp [typeOK, ParamOK, tagWidth]

theorem typesOK_iff (L : List (List Byte)) (T : List TypeTag) : typesOK L T = true ↔ ParamsOK L T := by
  unfold ParamsOK
  induction L generalizing T with
  | nil => cases T <;> simp [typesOK]
  | cons B L ih =>
    cases T with
    | nil => simp [typesOK]
    | cons t T =>
      rw [List.forall₂_cons, ← ih, ← typeOK_iff]
      simp [typesOK]
      tauto

/-- `build` answers the plane when it fits the gate (R202). -/
theorem build_eq (d : Byte) (g : GateConf) (L : List (List Byte)) :
    build d g L = if (planeWith g.gateID d L).length ≤ g.maxSizeOfPlane then some (planeWith g.gateID d L) else none := by
  have hflat : L.flatMap (segmentOf d) = L.flatMap (paramSegment d) :=
    List.flatMap_congr fun B _ => segmentOf_eq_paramSegment d B
  have hlen : (makePlane g.gateID (L.flatMap (paramSegment d))).length = (L.flatMap (paramSegment d)).length + 2 := by
    simp [makePlane]
  unfold build planeWith
  dsimp only
  rw [hflat, planeOf_eq_makePlane, hlen]
  split
  · rw [if_neg (by omega)]
  · rw [if_pos (by omega)]

/-- The lookup finds the gate of an ID (R213). -/
theorem gate?_of_mem {s : State} {g : Gate} (hd : DistinctGates s) (hg : g ∈ s.gates) :
    s.gate? g.conf.gateID = some g := by
  have hsome : (s.gates.find? fun h => h.conf.gateID == g.conf.gateID).isSome :=
    List.find?_isSome.mpr ⟨g, hg, by simp⟩
  obtain ⟨h, hh⟩ := Option.isSome_iff_exists.mp hsome
  have hid : h.conf.gateID = g.conf.gateID := by simpa using List.find?_some hh
  rw [State.gate?, hh, List.inj_on_of_nodup_map hd (List.mem_of_find?_eq_some hh) hg hid]

/-- The gate an operand names (R213). -/
theorem gateOfWord?_of_mem {s : State} {g : Gate} {v : Word} (hd : DistinctGates s) (hg : g ∈ s.gates)
    (hv : v.toNat = g.conf.gateID.toNat) : s.gateOfWord? v = some g := by
  have hlt := g.conf.gateID.isLt
  have hid : v.setWidth 8 = g.conf.gateID := by apply BitVec.eq_of_toNat_eq; simp; omega
  rw [State.gateOfWord?, if_pos (by omega), hid]
  exact gate?_of_mem hd hg

/-- An operand that names no gate finds none. -/
theorem gateOfWord?_of_namesNoGate {s : State} {v : Word} (h : NamesNoGate s v) : s.gateOfWord? v = none := by
  unfold State.gateOfWord?
  split
  · rw [State.gate?, List.find?_eq_none]
    intro g hg hh
    have hid : g.conf.gateID = v.setWidth 8 := by simpa using hh
    apply h g hg
    rw [hid]; simp; omega
  · rfl

end Sys2Proof.Machine
end

