-- ==== Sys2Proof/Laws/PerInstr.lean ====
section
/-! SUPPORT. What holds of every command, one lemma for each constructor. -/

namespace Sys2Proof.Laws.LegalWord

/-- The word of a command is legal: MBZ is zero and the opcode is listed (30_encoding.md R84, R85, R89). -/
def Statement (i : Instr) : Prop := (CmdWord.ofWord (encode i)).wf = true ∧ (encode i).toNat < 256

theorem nop : Statement .nop := by unfold Statement; decide
theorem chunkEncode : Statement .chunkEncode := by unfold Statement; decide
theorem chunkDecode : Statement .chunkDecode := by unfold Statement; decide
theorem chunkToWire : Statement .chunkToWire := by unfold Statement; decide
theorem chunkFromWire : Statement .chunkFromWire := by unfold Statement; decide
theorem scalarToBytes : Statement .scalarToBytes := by unfold Statement; decide
theorem scalarToData : Statement .scalarToData := by unfold Statement; decide
theorem scalarGetArraySize : Statement .scalarGetArraySize := by unfold Statement; decide
theorem pktCreate : Statement .pktCreate := by unfold Statement; decide
theorem pktAppend : Statement .pktAppend := by unfold Statement; decide
theorem pktSegFromBytes : Statement .pktSegFromBytes := by unfold Statement; decide
theorem pktVerifyCheckSum : Statement .pktVerifyCheckSum := by unfold Statement; decide
theorem pktGetTotalSize : Statement .pktGetTotalSize := by unfold Statement; decide
theorem pktVerifyID : Statement .pktVerifyID := by unfold Statement; decide
theorem pktGetParamCount : Statement .pktGetParamCount := by unfold Statement; decide
theorem pktSegToBytes : Statement .pktSegToBytes := by unfold Statement; decide
theorem pktFullyAnalyze : Statement .pktFullyAnalyze := by unfold Statement; decide
theorem pktGetParameter : Statement .pktGetParameter := by unfold Statement; decide
theorem termPut : Statement .termPut := by unfold Statement; decide
theorem termIsOnTaxiway : Statement .termIsOnTaxiway := by unfold Statement; decide
theorem termPop : Statement .termPop := by unfold Statement; decide
theorem termArriveChunk : Statement .termArriveChunk := by unfold Statement; decide
theorem termTakeArrival : Statement .termTakeArrival := by unfold Statement; decide
theorem termArrivalInfo : Statement .termArrivalInfo := by unfold Statement; decide
theorem termReset : Statement .termReset := by unfold Statement; decide
theorem gateRequest : Statement .gateRequest := by unfold Statement; decide
theorem gateRead : Statement .gateRead := by unfold Statement; decide
theorem gateStatus : Statement .gateStatus := by unfold Statement; decide
theorem gateDock : Statement .gateDock := by unfold Statement; decide

end Sys2Proof.Laws.LegalWord
end

