-- ==== Sys2Proof/Laws/Runway.lean ====
section
/-! SUPPORT. What the phases of a tick and the link events can do, each said once (44_runway.md R168 to R182). -/

namespace Sys2Proof.Machine

/-- A state that differs from another in what a tick may write alone (44_runway.md R172, 20_memory.md R64). -/
def TickOnly (s t : State) : Prop :=
  t = { s with
    gates := t.gates
    tax := t.tax
    departureStatus := t.departureStatus
    errPlane := t.errPlane
    errValid := t.errValid
    events := t.events
    arrState := t.arrState
    packetAvailable := t.packetAvailable
    arrBuf := t.arrBuf
    runSum := t.runSum
    receivingID := t.receivingID
    arrivalStatus := t.arrivalStatus
    tickCount := t.tickCount
    sending := t.sending
    txBuf := t.txBuf
    txChunk := t.txChunk
    txID := t.txID
    txOwner := t.txOwner
    hwStatus := t.hwStatus
    rejectedThisTick := t.rejectedThisTick
    rxLatch := t.rxLatch
    rxLatchValid := t.rxLatchValid
    rxFifo := t.rxFifo
    txQueue := t.txQueue }

theorem TickOnly.refl (s : State) : TickOnly s s := rfl

theorem TickOnly.trans {s t u : State} (h : TickOnly s t) (k : TickOnly t u) : TickOnly s u := by
  unfold TickOnly at *
  rw [h] at k
  exact k

/-- One received byte: it waits for its pair, or the pair is no chunk, or the chunk arrives (R175). -/
theorem rxByteToChunk_cases (s : State) (b : Byte) :
    (s.rxLatchValid = false ∧ rxByteToChunk s b = { s with rxLatch := b, rxLatchValid := true }) ∨
    (s.rxLatchValid = true ∧ 3 < s.rxLatch.toNat ∧
      rxByteToChunk s b = { s with rxLatchValid := false }.report .wireError) ∨
    (s.rxLatchValid = true ∧ s.rxLatch.toNat ≤ 3 ∧
      rxByteToChunk s b =
        arriveAndDock (BitVec.ofNat 16 (s.rxLatch.toNat * 256 + b.toNat)) { s with rxLatchValid := false }) := by
  cases hv : s.rxLatchValid
  · exact .inl ⟨rfl, by simp [rxByteToChunk, hv]⟩
  · by_cases h : s.rxLatch.toNat ≤ 3
    · exact .inr (.inr ⟨rfl, h, by simp [rxByteToChunk, hv, fromWire, h]⟩)
    · exact .inr (.inl ⟨rfl, by omega, by simp [rxByteToChunk, hv, fromWire, h]⟩)

theorem TickOnly.arriveAndDock (c : Chunk) (s : State) : TickOnly s (arriveAndDock c s) := by
  have h := arriveAndDock_frame c s
  unfold ReceptionOnly at h
  rw [h]; rfl

theorem TickOnly.rxByteToChunk (s : State) (b : Byte) : TickOnly s (rxByteToChunk s b) := by
  rcases rxByteToChunk_cases s b with ⟨_, h⟩ | ⟨_, _, h⟩ | ⟨_, _, h⟩ <;> rw [h]
  · rfl
  · rfl
  · exact TickOnly.trans (t := { s with rxLatchValid := false }) rfl (TickOnly.arriveAndDock _ _)

theorem TickOnly.foldl_rxByteToChunk (bs : List Byte) (s : State) : TickOnly s (bs.foldl Machine.rxByteToChunk s) := by
  induction bs generalizing s with
  | nil => rfl
  | cons b bs ih => exact (TickOnly.rxByteToChunk s b).trans (ih _)

theorem TickOnly.rxPhase (s : State) : TickOnly s (rxPhase s) :=
  TickOnly.trans (t := { s with rxFifo := s.rxFifo.drop (rxAmount s) }) rfl (TickOnly.foldl_rxByteToChunk _ _)

theorem TickOnly.updateGates (s : State) : TickOnly s (updateGates s) := by rw [updateGates_frame]; rfl

theorem TickOnly.updateOwner (f : Gate → Gate) (s : State) : TickOnly s (updateOwner f s) := by
  unfold Machine.updateOwner; split <;> rfl

theorem TickOnly.sendChunk (s : State) : TickOnly s (sendChunk s) := by
  unfold Machine.sendChunk
  split
  · rfl
  · next c _ =>
    have h1 : TickOnly s (Machine.updateOwner Gate.leaving
        { s with txQueue := s.txQueue ++ [(toWire c).1, (toWire c).2], txChunk := s.txChunk + 1 }) :=
      TickOnly.trans (t := { s with txQueue := s.txQueue ++ [(toWire c).1, (toWire c).2], txChunk := s.txChunk + 1 })
        rfl (TickOnly.updateOwner _ _)
    dsimp only
    split
    · exact h1.trans (TickOnly.trans (t := State.report .planeDeparted _) rfl (TickOnly.updateOwner _ _))
    · exact h1

theorem TickOnly.reject (o : TxOwner) (s : State) : TickOnly s (reject o s) := by
  unfold Machine.reject; dsimp only; split <;> rfl

theorem TickOnly.loadPlane (o : TxOwner) (id : Byte) (P : List Chunk) (max : Nat) (s : State) :
    TickOnly s (loadPlane o id P max s) := by
  unfold Machine.loadPlane
  split
  · exact TickOnly.reject _ _
  · rfl

theorem TickOnly.startPlane (id : Byte) (s : State) : TickOnly s (startPlane id s) := by
  unfold Machine.startPlane
  repeat' split
  all_goals first | exact TickOnly.reject _ _ | exact TickOnly.loadPlane _ _ _ _ _

theorem TickOnly.txPhase (s : State) : TickOnly s (txPhase s) := by
  unfold Machine.txPhase
  split
  · exact TickOnly.sendChunk s
  · rcases pop_cases s with ⟨_, h⟩ | ⟨id, rest, _, h⟩ <;> rw [h]
    · rfl
    · dsimp only
      generalize hp : ({ s with
        tax := rest
        departureStatus := if rest.length > 0 then .departureAvailable else .initialised } : State) = popped
      have h1 : TickOnly s (Machine.startPlane id popped) := by
        rw [← hp]
        exact TickOnly.trans (t := { s with
          tax := rest
          departureStatus := if rest.length > 0 then .departureAvailable else .initialised }) rfl
          (TickOnly.startPlane _ _)
      unfold sendIfSending
      split
      · exact h1.trans (TickOnly.sendChunk _)
      · exact h1

theorem TickOnly.endTick (s : State) : TickOnly s (endTick s) := rfl

/-- A tick writes nothing else (R172). -/
theorem tick_frame (s : State) : TickOnly s (tick s) := by
  unfold tick
  have h0 : TickOnly s { s with rejectedThisTick := false } := rfl
  dsimp only
  split
  · exact h0.trans ((TickOnly.rxPhase _).trans ((TickOnly.updateGates _).trans
      ((TickOnly.txPhase _).trans (TickOnly.endTick _))))
  · exact h0.trans ((TickOnly.updateGates _).trans (TickOnly.endTick _))

/-! ### A tick keeps every gate's entry of the gate table -/

theorem updateOwner_confs (f : Gate → Gate) (s : State) (hf : ∀ g, (f g).conf = g.conf) :
    (updateOwner f s).gates.map (·.conf) = s.gates.map (·.conf) := by
  unfold updateOwner
  split
  · exact updateGate_confs _ _ _ hf
  · rfl
  · rfl

@[simp] theorem Gate.leaving_conf (g : Gate) : g.leaving.conf = g.conf := by unfold Gate.leaving; split <;> rfl

@[simp] theorem Gate.departed_conf (r : Role) (g : Gate) : (g.departed r).conf = g.conf := by cases r <;> rfl

@[simp] theorem Gate.left_conf (r : Role) (g : Gate) : (g.left r).conf = g.conf := by
  unfold Gate.left
  split
  · exact Gate.departed_conf r g
  · rfl

theorem sendChunk_confs (s : State) : (sendChunk s).gates.map (·.conf) = s.gates.map (·.conf) := by
  unfold sendChunk
  split
  · rfl
  · dsimp only
    split
    · rw [updateOwner_confs _ _ (Gate.left_conf _), State.report_gates]
      exact updateOwner_confs _ _ Gate.leaving_conf
    · exact updateOwner_confs _ _ Gate.leaving_conf

theorem reject_confs (o : TxOwner) (s : State) : (reject o s).gates.map (·.conf) = s.gates.map (·.conf) := by
  unfold reject
  dsimp only
  split
  · exact updateGate_confs _ _ _ fun _ => rfl
  · rfl
  · rfl

theorem loadPlane_confs (o : TxOwner) (id : Byte) (P : List Chunk) (max : Nat) (s : State) :
    (loadPlane o id P max s).gates.map (·.conf) = s.gates.map (·.conf) := by
  unfold loadPlane
  split
  · exact reject_confs _ _
  · rfl

theorem startPlane_confs (id : Byte) (s : State) : (startPlane id s).gates.map (·.conf) = s.gates.map (·.conf) := by
  unfold startPlane
  repeat' split
  all_goals first | exact reject_confs _ _ | exact loadPlane_confs _ _ _ _ _

theorem sendIfSending_confs (s : State) : (sendIfSending s).gates.map (·.conf) = s.gates.map (·.conf) := by
  unfold sendIfSending
  split
  · exact sendChunk_confs s
  · rfl

theorem txPhase_confs (s : State) : (txPhase s).gates.map (·.conf) = s.gates.map (·.conf) := by
  unfold txPhase
  split
  · exact sendChunk_confs s
  · rcases pop_cases s with ⟨_, h⟩ | ⟨id, rest, _, h⟩ <;> rw [h]
    exact (sendIfSending_confs _).trans (startPlane_confs _ _)

theorem rxByteToChunk_confs (s : State) (b : Byte) :
    (rxByteToChunk s b).gates.map (·.conf) = s.gates.map (·.conf) := by
  rcases rxByteToChunk_cases s b with ⟨_, h⟩ | ⟨_, _, h⟩ | ⟨_, _, h⟩ <;> rw [h]
  · rfl
  · exact arriveAndDock_confs _ _

theorem rxPhase_confs (s : State) : (rxPhase s).gates.map (·.conf) = s.gates.map (·.conf) := by
  have h : ∀ (bs : List Byte) (t : State), (bs.foldl rxByteToChunk t).gates.map (·.conf) = t.gates.map (·.conf) := by
    intro bs
    induction bs with
    | nil => exact fun _ => rfl
    | cons b bs ih => exact fun t => (ih _).trans (rxByteToChunk_confs t b)
  exact h _ _

/-- A tick keeps every gate's entry of the gate table. -/
theorem tick_confs (s : State) : (tick s).gates.map (·.conf) = s.gates.map (·.conf) := by
  unfold tick
  dsimp only
  split
  · rw [endTick_gates, txPhase_confs, updateGates_confs, rxPhase_confs]
  · rw [endTick_gates, updateGates_confs]

/-! ### Only the choice of the bytes to receive reads or writes `rxFifo` -/

/-- A state with other bytes in `rxFifo`. -/
def State.withFifo (q : List Byte) (s : State) : State := { s with rxFifo := q }

section
variable (q : List Byte) (s : State)

theorem arriveAndDock_withFifo (c : Chunk) :
    arriveAndDock c (s.withFifo q) = (arriveAndDock c s).withFifo q := by
  have hv := arriveAndDock_withView (s.withFifo q) s c
  have hf := arriveAndDock_frame c s
  unfold ReceptionOnly at hf
  rw [show s.withView (s.withFifo q) = s.withFifo q from rfl] at hv
  rw [hv, hf]
  rfl

theorem rxByteToChunk_withFifo (b : Byte) : rxByteToChunk (s.withFifo q) b = (rxByteToChunk s b).withFifo q := by
  unfold rxByteToChunk
  rw [show (s.withFifo q).rxLatchValid = s.rxLatchValid from rfl, show (s.withFifo q).rxLatch = s.rxLatch from rfl]
  by_cases h : s.rxLatchValid = false
  · rw [if_pos h, if_pos h]; rfl
  · rw [if_neg h, if_neg h]
    cases fromWire s.rxLatch b with
    | none => rfl
    | some c => exact arriveAndDock_withFifo q { s with rxLatchValid := false } c

theorem foldl_rxByteToChunk_withFifo (bs : List Byte) :
    bs.foldl rxByteToChunk (s.withFifo q) = (bs.foldl rxByteToChunk s).withFifo q := by
  induction bs generalizing s with
  | nil => rfl
  | cons b bs ih => rw [List.foldl_cons, rxByteToChunk_withFifo, ih]; rfl

theorem updateGates_withFifo : updateGates (s.withFifo q) = (updateGates s).withFifo q := by
  unfold updateGates State.reportIf
  rw [show (s.withFifo q).gates = s.gates from rfl, show (s.withFifo q).params = s.params from rfl]
  split <;> rfl

theorem updateOwner_withFifo (f : Gate → Gate) : updateOwner f (s.withFifo q) = (updateOwner f s).withFifo q := by
  unfold updateOwner
  rw [show (s.withFifo q).txOwner = s.txOwner from rfl]
  cases s.txOwner <;> rfl

theorem sendChunk_withFifo : sendChunk (s.withFifo q) = (sendChunk s).withFifo q := by
  unfold sendChunk
  rw [show (s.withFifo q).txBuf = s.txBuf from rfl, show (s.withFifo q).txChunk = s.txChunk from rfl]
  cases s.txBuf[s.txChunk]? with
  | none => rfl
  | some c =>
    have hs := updateOwner_withFifo q
      { s with txQueue := s.txQueue ++ [(toWire c).1, (toWire c).2], txChunk := s.txChunk + 1 } Gate.leaving
    unfold State.withFifo at hs ⊢
    dsimp only at hs ⊢
    rw [hs]
    generalize updateOwner Gate.leaving
      { s with txQueue := s.txQueue ++ [(toWire c).1, (toWire c).2], txChunk := s.txChunk + 1 } = sent
    by_cases hc : sent.txChunk = sent.txLen
    · rw [if_pos (by exact hc), if_pos hc]
      exact updateOwner_withFifo q (State.report .planeDeparted { sent with sending := false }) _
    · rw [if_neg (by exact hc), if_neg hc]

theorem sendIfSending_withFifo : sendIfSending (s.withFifo q) = (sendIfSending s).withFifo q := by
  unfold sendIfSending
  by_cases h : s.sending = true
  · rw [if_pos (by exact h), if_pos h]; exact sendChunk_withFifo q s
  · rw [if_neg (by exact h), if_neg h]

theorem loadPlane_withFifo (o : TxOwner) (id : Byte) (P : List Chunk) (max : Nat) :
    loadPlane o id P max (s.withFifo q) = (loadPlane o id P max s).withFifo q := by
  unfold loadPlane
  by_cases h : P.length > max ∨ P.length > s.params.runwayBufferSize
  · rw [if_pos (by exact h), if_pos h]; cases o <;> rfl
  · rw [if_neg (by exact h), if_neg h]; rfl

theorem startPlane_withFifo (id : Byte) : startPlane id (s.withFifo q) = (startPlane id s).withFifo q := by
  unfold startPlane
  rw [show (s.withFifo q).errValid = s.errValid from rfl, show (s.withFifo q).gate? = s.gate? from rfl]
  by_cases h8 : id = 8
  · rw [if_pos h8, if_pos h8]
    split
    · rfl
    · cases s.gate? 8 with
      | none => rfl
      | some g => exact loadPlane_withFifo q s _ _ _ _
  · rw [if_neg h8, if_neg h8]
    cases s.gate? id with
    | none => rfl
    | some g =>
      dsimp only
      split
      · rfl
      · exact loadPlane_withFifo q s _ _ _ _

theorem pop_withFifo : pop (s.withFifo q) = (pop s).map fun p => (p.1, p.2.withFifo q) := by
  rcases pop_cases s with ⟨h, e⟩ | ⟨id, rest, h, e⟩ <;> rw [e] <;> simp [pop, State.withFifo, h]

/-- The transmission phase of a tick neither reads nor writes `rxFifo` (R178). -/
theorem txPhase_withFifo : txPhase (s.withFifo q) = (txPhase s).withFifo q := by
  unfold txPhase
  by_cases h : s.sending = true
  · rw [if_pos (by exact h), if_pos h]; exact sendChunk_withFifo q s
  · rw [if_neg (by exact h), if_neg h, pop_withFifo]
    cases pop s with
    | none => rfl
    | some p => exact (congrArg sendIfSending (startPlane_withFifo q p.2 p.1)).trans (sendIfSending_withFifo q _)

end

/-! ### What the transmission phase does to the gates -/

/-- A change of a gate that keeps its entry of the gate table and its timer. -/
def KeepsTimer (f : Gate → Gate) : Prop := ∀ g, (f g).conf = g.conf ∧ (f g).timer = g.timer

/-- A change of a gate that leaves a gate alone that does not wait for the runway. -/
def KeepsOthers (f : Gate → Gate) : Prop := ∀ g, g.status ≠ .readyForDeparture → g.status ≠ .justLeft → f g = g

theorem Gate.leaving_keeps : KeepsTimer Gate.leaving ∧ KeepsOthers Gate.leaving :=
  ⟨fun g => by unfold Gate.leaving; split <;> exact ⟨rfl, rfl⟩, fun g h _ => if_neg h⟩

theorem Gate.left_keeps (r : Role) : KeepsTimer (Gate.left r) ∧ KeepsOthers (Gate.left r) := by
  refine ⟨fun g => ?_, fun g _ h => if_neg h⟩
  unfold Gate.left
  split
  · cases r <;> exact ⟨rfl, rfl⟩
  · exact ⟨rfl, rfl⟩

/-- The owner of the plane being sent is changed, and no other gate. -/
theorem updateOwner_gates (f : Gate → Gate) (s : State) :
    (updateOwner f s).gates = s.gates.map fun g => if s.txOwner = .gate g.conf.gateID then f g else g := by
  unfold updateOwner
  cases h : s.txOwner with
  | gate id =>
    simp only [State.updateGate_gates, TxOwner.gate.injEq]
    exact List.map_congr_left fun g _ => by simp only [eq_comm]
  | none => simp
  | errSlot => simp

@[simp] theorem updateOwner_txOwner (f : Gate → Gate) (s : State) : (updateOwner f s).txOwner = s.txOwner := by
  unfold updateOwner; split <;> rfl

@[simp] theorem updateOwner_events (f : Gate → Gate) (s : State) : (updateOwner f s).events = s.events := by
  unfold updateOwner; split <;> rfl

/-- Sending a chunk changes the owner alone, and not its timer (R179). -/
theorem sendChunk_gates (s : State) :
    ∃ f, KeepsTimer f ∧ KeepsOthers f ∧ (∀ g, s.txOwner ≠ .gate g.conf.gateID → f g = g) ∧
      (sendChunk s).gates = s.gates.map f := by
  have hid : ∃ f, KeepsTimer f ∧ KeepsOthers f ∧ (∀ g, s.txOwner ≠ .gate g.conf.gateID → f g = g) ∧
      s.gates = s.gates.map f :=
    ⟨id, fun _ => ⟨rfl, rfl⟩, fun _ _ _ => rfl, fun _ _ => rfl, (List.map_id _).symm⟩
  have hk := Gate.leaving_keeps
  have hl := Gate.left_keeps s.params.role
  unfold sendChunk
  split
  · exact hid
  · dsimp only
    split
    · refine ⟨fun g => if s.txOwner = .gate g.conf.gateID then Gate.left s.params.role g.leaving else g,
        fun g => ?_, fun g h1 h2 => ?_, fun g h => if_neg h, ?_⟩
      · dsimp only
        split
        · exact ⟨(hl.1 _).1.trans (hk.1 g).1, (hl.1 _).2.trans (hk.1 g).2⟩
        · exact ⟨rfl, rfl⟩
      · dsimp only
        rw [hk.2 g h1 h2, hl.2 g h1 h2, ite_self]
      · rw [updateOwner_gates, State.report_gates, updateOwner_gates, List.map_map]
        refine List.map_congr_left fun g _ => ?_
        simp only [Function.comp_apply, State.report_txOwner, updateOwner_txOwner]
        by_cases h : s.txOwner = .gate g.conf.gateID
        · simp only [if_pos h, (hk.1 g).1]
        · simp [h]
    · refine ⟨fun g => if s.txOwner = .gate g.conf.gateID then g.leaving else g,
        fun g => ?_, fun g h1 h2 => ?_, fun g h => if_neg h, updateOwner_gates _ _⟩
      · dsimp only; split
        · exact hk.1 g
        · exact ⟨rfl, rfl⟩
      · dsimp only; rw [hk.2 g h1 h2, ite_self]

/-- A rejection changes the owner alone, and not its timer (R180). -/
theorem reject_gates (o : TxOwner) (s : State) :
    ∃ f, KeepsTimer f ∧ (∀ g, o ≠ .gate g.conf.gateID → f g = g) ∧ (reject o s).gates = s.gates.map f := by
  cases o with
  | gate id =>
    refine ⟨fun g => if g.conf.gateID = id then { g with lastResult := .failed, status := .cleaned } else g,
      fun g => ?_, fun g h => if_neg fun e => h (by rw [e]), rfl⟩
    dsimp only; split <;> exact ⟨rfl, rfl⟩
  | none => exact ⟨id, fun _ => ⟨rfl, rfl⟩, fun _ _ => rfl, (List.map_id _).symm⟩
  | errSlot => exact ⟨id, fun _ => ⟨rfl, rfl⟩, fun _ _ => rfl, (List.map_id _).symm⟩

/-- The plane is rejected, or it is loaded and the gates are as they were (R180). -/
theorem startPlane_cases (id : Byte) (s : State) :
    startPlane id s = reject .none s ∨ startPlane id s = reject .errSlot s ∨
    (∃ g, s.gate? id = some g ∧ g.status = .readyForDeparture ∧ startPlane id s = reject (.gate id) s) ∨
    ((startPlane id s).gates = s.gates ∧ (startPlane id s).events = s.events ∧
      ((startPlane id s).txOwner = .errSlot ∨ (startPlane id s).txOwner = .gate id)) := by
  unfold startPlane
  split
  · split
    · exact .inl rfl
    · split
      · exact .inl rfl
      · unfold loadPlane
        split
        · exact .inr (.inl rfl)
        · exact .inr (.inr (.inr ⟨rfl, rfl, .inl rfl⟩))
  · split
    · exact .inl rfl
    · next g hg =>
      split
      · exact .inl rfl
      · next hs =>
        unfold loadPlane
        split
        · exact .inr (.inr (.inl ⟨g, hg, not_not.mp hs, rfl⟩))
        · exact .inr (.inr (.inr ⟨rfl, rfl, .inr rfl⟩))

/-- The transmission phase keeps every gate's timer; it changes no gate but the owner of the plane being sent and the gate
of the ID at the head of the taxiway, and, where gate IDs are distinct, none that does not wait for the runway (R178). -/
theorem txPhase_gates (s : State) :
    ∃ f, KeepsTimer f ∧
      (∀ g, ¬ (s.sending = true ∧ s.txOwner = .gate g.conf.gateID) →
        ¬ (s.sending = false ∧ s.tax.head? = some g.conf.gateID) → f g = g) ∧
      (∀ g, s.gate? g.conf.gateID = some g → g.status ≠ .readyForDeparture → g.status ≠ .justLeft → f g = g) ∧
      (txPhase s).gates = s.gates.map f := by
  have hid : ∃ f, KeepsTimer f ∧ (∀ g : Gate, True → f g = g) ∧ s.gates = s.gates.map f :=
    ⟨id, fun _ => ⟨rfl, rfl⟩, fun _ _ => rfl, (List.map_id _).symm⟩
  unfold txPhase
  cases hs : s.sending
  · rw [if_neg Bool.false_ne_true]
    rcases pop_cases s with ⟨_, hp⟩ | ⟨id, rest, ht, hp⟩ <;> rw [hp]
    · obtain ⟨f, h1, h2, h3⟩ := hid
      exact ⟨f, h1, fun g _ _ => h2 g trivial, fun g _ _ _ => h2 g trivial, h3⟩
    · dsimp only
      generalize hq : ({ s with
        tax := rest
        departureStatus := if rest.length > 0 then .departureAvailable else .initialised } : State) = popped
      have hg : popped.gates = s.gates := by rw [← hq]
      have hg' : popped.gate? id = s.gate? id := by rw [← hq]; rfl
      have hsend : popped.sending = false := by rw [← hq]; exact hs
      have hrej : ∀ o, sendIfSending (reject o popped) = reject o popped := fun o =>
        if_neg (by cases o <;> simp [reject, hsend])
      rcases startPlane_cases id popped with h | h | ⟨g0, h0, hst, h⟩ | ⟨h, _, ho⟩
      · rw [h, hrej, ← hg]
        obtain ⟨f, h1, h2, h3⟩ := reject_gates .none popped
        exact ⟨f, h1, fun g _ _ => h2 g nofun, fun g _ _ _ => h2 g nofun, h3⟩
      · rw [h, hrej, ← hg]
        obtain ⟨f, h1, h2, h3⟩ := reject_gates .errSlot popped
        exact ⟨f, h1, fun g _ _ => h2 g nofun, fun g _ _ _ => h2 g nofun, h3⟩
      · rw [h, hrej, ← hg]
        obtain ⟨f, h1, h2, h3⟩ := reject_gates (.gate id) popped
        refine ⟨f, h1, fun g _ hn => h2 g fun e => hn ⟨rfl, ?_⟩, fun g hgu hr _ => h2 g fun e => hr ?_, h3⟩
        · rw [ht, List.head?_cons, TxOwner.gate.inj e]
        · rw [← TxOwner.gate.inj e, ← hg', h0] at hgu
          exact Option.some.inj hgu ▸ hst
      · have hown : ∀ g : Gate, ¬ (false = false ∧ s.tax.head? = some g.conf.gateID) →
            (startPlane id popped).txOwner ≠ .gate g.conf.gateID := by
          intro g hn e
          rcases ho with ho | ho <;> rw [ho] at e
          · cases e
          · exact hn ⟨rfl, by rw [ht, List.head?_cons, TxOwner.gate.inj e]⟩
        unfold sendIfSending
        split
        · obtain ⟨f, h1, h2, h3, h4⟩ := sendChunk_gates (startPlane id popped)
          rw [h4, h, hg]
          exact ⟨f, h1, fun g _ hn => h3 g (hown g hn), fun g _ => h2 g, rfl⟩
        · obtain ⟨f, h1, h2, h3⟩ := hid
          rw [h, hg]
          exact ⟨f, h1, fun g _ _ => h2 g trivial, fun g _ _ _ => h2 g trivial, h3⟩
  · rw [if_pos rfl]
    obtain ⟨f, h1, h2, h3, h4⟩ := sendChunk_gates s
    exact ⟨f, h1, fun g hn _ => h3 g fun e => hn ⟨rfl, e⟩, fun g _ => h2 g, h4⟩

/-- The transmission phase reports no gate timeout (R178 to R180). -/
theorem txPhase_gateTimeout (s : State) : (txPhase s).events.getLsbD 12 = s.events.getLsbD 12 := by
  have hsend : ∀ t : State, (sendChunk t).events.getLsbD 12 = t.events.getLsbD 12 := by
    intro t
    unfold sendChunk
    split
    · rfl
    · dsimp only
      split <;> simp [State.report, Event.mask, Event.bit]
  have hsis : ∀ t : State, (sendIfSending t).events.getLsbD 12 = t.events.getLsbD 12 := by
    intro t
    unfold sendIfSending
    split
    · exact hsend t
    · rfl
  have hrej : ∀ (o : TxOwner) (t : State), (reject o t).events.getLsbD 12 = t.events.getLsbD 12 := by
    intro o t
    cases o <;> simp [reject, State.report, Event.mask, Event.bit]
  unfold txPhase
  split
  · exact hsend s
  · rcases pop_cases s with ⟨_, h⟩ | ⟨id, rest, _, h⟩ <;> rw [h]
    dsimp only
    rw [hsis]
    rcases startPlane_cases id { s with
        tax := rest
        departureStatus := if rest.length > 0 then .departureAvailable else .initialised } with
      h | h | ⟨_, _, _, h⟩ | ⟨_, h, _⟩ <;> rw [h] <;> exact hrej _ _

/-! ### The link events -/

/-- A received byte is kept while there is room, and lost otherwise (R168). -/
theorem rxByte_cases (b : Byte) (s : State) :
    (s.rxFifo.length < s.params.rxFifoDepth ∧ rxByte b s = { s with rxFifo := s.rxFifo ++ [b] }) ∨
    (s.params.rxFifoDepth ≤ s.rxFifo.length ∧ rxByte b s = s.report .rxOverrun) := by
  by_cases h : s.rxFifo.length < s.params.rxFifoDepth
  · exact .inl ⟨h, by simp [rxByte, h]⟩
  · exact .inr ⟨by omega, by simp [rxByte, h]⟩

/-- The oldest byte is taken, or there is none (R169). -/
theorem txTake_cases (s : State) :
    (s.txQueue = [] ∧ txTake s = none) ∨
    (∃ b rest, s.txQueue = b :: rest ∧ txTake s = some (b, { s with txQueue := rest })) := by
  cases h : s.txQueue with
  | nil => exact .inl ⟨rfl, by simp [txTake, h]⟩
  | cons b rest => exact .inr ⟨b, rest, rfl, by simp [txTake, h]⟩

end Sys2Proof.Machine
end

