-- ==== Sys2Proof/Machine/Duplex.lean ====
section
/-! DEFINITION. The two-endpoint system (60_exceptions.md R244, R245): two blocks and the two byte lines between
them (DESIGN CHOICE for its place beside `step`, log 24). -/

namespace Sys2Proof.Machine

/-- Two blocks, each with its own state and configuration (R245). -/
structure Duplex where
  a : State
  b : State
deriving DecidableEq, Repr

/-- One step of the system (R244): an event of one block, or one byte along a line. An event of one block may be `rxByte`
of a byte its peer never sent, as in the program P3 of 95_test_vectors.md, though R244 does not list it, and `txTake`, by
which the line loses a byte (DESIGN CHOICE, log 24). -/
inductive DuplexInput where
  | blockA (i : Input)
  | blockB (i : Input)
  | wireAB
  | wireBA
deriving DecidableEq, Repr

/-- The wire step (R244): `txTake` on the one block, then `rxByte` of that byte on the other, as one step. -/
def wire (src dst : State) : Host.Outcome (State × State) Fault Refusal :=
  match txTake src with
  | none => .refused .txTakeNotEnabled
  | some (b, taken) => .next (taken, rxByte b dst)

/-- The outcome of a step of one block as the outcome of the system. -/
def inSystem {α : Type} (wrap : α → Duplex) (o : Host.Outcome α Fault Refusal) : Host.Outcome Duplex Fault Refusal :=
  match o with
  | .next x => .next (wrap x)
  | .fault f => .fault f
  | .refused r => .refused r

/-- One step of the system (R244). A block takes every event it takes alone, `rxByte` among them (DESIGN CHOICE,
log 24). -/
def duplexStep (i : DuplexInput) (d : Duplex) : Host.Outcome Duplex Fault Refusal :=
  match i with
  | .blockA i => inSystem (fun x => { d with a := x }) (applyInput i d.a)
  | .blockB i => inSystem (fun x => { d with b := x }) (applyInput i d.b)
  | .wireAB => inSystem (fun x => ⟨x.1, x.2⟩) (wire d.a d.b)
  | .wireBA => inSystem (fun x => ⟨x.2, x.1⟩) (wire d.b d.a)

end Sys2Proof.Machine
end

