-- ==== Sys2Proof/Tests/Slice0.lean ====
section
/-! SUPPORT. Tests of single steps, with expected values from 95_test_vectors.md and 30_encoding.md, and for every
obligation with hypotheses a witness: a state, and operands at the ends of their ranges, that meet them together. -/

namespace Sys2Proof.Tests

open Sys2Proof Sys2Proof.Machine

/-! ### Helpers -/

/-- EX1 after power-on (95_test_vectors.md 0.1, 0.2). -/
def fresh (r : Role) : State := State.powerOn (Config.ex1 r) true

/-- `rng(a, l)` of 95_test_vectors.md. -/
def rng (a l : Nat) : Word := BitVec.ofNat 32 (l * 65536 + a)

/-- A state with operands. -/
def withArgs (s : State) (a0 : Word) (a1 : Word := 0) (a2 : Word := 0) (a3 : Word := 0) : State :=
  { s with arg0 := a0, arg1 := a1, arg2 := a2, arg3 := a3 }

/-- A state with cells of PWM written from address 0 on. -/
def withPwm (s : State) (cells : List Chunk) : State := { s with pwm := s.pwm.writeRange 0 cells }

/-- A state with bytes of BWM written from address 0 on. -/
def withBwm (s : State) (bytes : List Byte) : State := { s with bwm := s.bwm.writeRange 0 bytes }

/-- What is seen of the next state, if there is one. -/
def sees {α : Type} (f : State → α) : Answer → Option α
  | .next t => some (f t)
  | .fault _ => none
  | .refused _ => none

/-- The fault of a step, if it has one. -/
def faultOf : Answer → Option Fault
  | .next _ => none
  | .fault f => some f
  | .refused _ => none

/-- What is seen of a gate. -/
structure GateView where
  status : GateStatus
  lastResult : ResultCode
  timer : Word
  depPlane : List Chunk
  arrParams : List (List Byte)
deriving DecidableEq, Repr

def gateView (s : State) (id : Byte) : Option GateView :=
  (s.gate? id).map fun g => ⟨g.status, g.lastResult, g.timer, g.depPlane, g.arrParams⟩

/-- PING1 of 95_test_vectors.md 0.3. -/
def ping1 : List Chunk := [0x200, 0x100, 0x001, 0x301]

/-! ### Well-formedness: each check refuses an ill-formed term -/

theorem test_cmd_word_ok : (CmdWord.mk 0x63 0).wf = true := by decide
theorem test_cmd_word_mbz : (CmdWord.mk 0x63 1).wf = false := by decide
theorem test_cmd_word_opcode : (CmdWord.mk 0x64 0).wf = false := by decide
theorem test_access_width : accessShapeOK 0x00008 16 = false := by decide
theorem test_access_alignment : accessShapeOK 0x0000A 32 = false := by decide
theorem test_config_ok : (Config.ex1 .master).wf = true ∧ (Config.ex1 .slave).wf = true := by decide

/-- EX1 with other parameters. -/
def ex1With (f : Params → Params) : Config := { Config.ex1 .master with params := f (Config.ex1 .master).params }

theorem test_config_arrival : (ex1With fun p => { p with sizeOfArrivalPlane := 3 }).wf = false := by decide
theorem test_config_taxiway : (ex1With fun p => { p with sizeOfDepartureTaxiway := 256 }).wf = false := by decide
theorem test_config_runway : (ex1With fun p => { p with runwayBufferSize := 65536 }).wf = false := by decide
theorem test_config_fifo : (ex1With fun p => { p with rxFifoDepth := 1 }).wf = false := by decide
theorem test_config_rate : (ex1With fun p => { p with rxBytesPerTick := some 1 }).wf = false := by decide
theorem test_config_memory : (ex1With fun p => { p with bwmSize := 0 }).wf = false ∧
    (ex1With fun p => { p with pwmSize := 65537 }).wf = false := by decide
theorem test_config_tick : (ex1With fun p => { p with tickMS := 0 }).wf = false := by decide
theorem test_config_supported : (ex1With fun p => { p with supported := 9 :: p.supported }).wf = false := by decide
theorem test_config_gate_twice : Config.gateIDsOK { Config.ex1 .master with
    gates := Config.ex1Gate 7 [] [] :: Config.ex1Gates } = false := by decide
theorem test_config_gate_missing : Config.mandatoryOK { Config.ex1 .master with
    gates := Config.ex1Gates.dropLast } = false := by decide
theorem test_config_ping : Config.pingOK { Config.ex1 .master with
    gates := [Config.ex1Gate 0 [.u8] [.bool]] } = false := by decide
theorem test_config_error_gate : Config.errorGateOK { Config.ex1 .master with
    gates := [Config.ex1Gate 8 [] [.u16]] } = false := by decide
theorem test_config_plane_size : Config.planeSizesOK { Config.ex1 .master with
    gates := [{ Config.ex1Gate 0 [.bool] [.bool] with maxSizeOfPlane := 9 }] } = false := by decide

/-! ### Decoding: every row of the opcode map of 30_encoding.md R88, opcode in bits 7 to 0 (R85) -/

theorem test_decode_system : decode 0x00000000#32 = .ok .nop := by decide
theorem test_decode_chunk : [0x10#32, 0x11#32, 0x12#32, 0x13#32].map decode =
    [.ok .chunkEncode, .ok .chunkDecode, .ok .chunkToWire, .ok .chunkFromWire] := by decide
theorem test_decode_scalar : [0x20#32, 0x21#32, 0x22#32].map decode =
    [.ok .scalarToBytes, .ok .scalarToData, .ok .scalarGetArraySize] := by decide
theorem test_decode_packet :
    [0x30#32, 0x31#32, 0x32#32, 0x33#32, 0x34#32, 0x35#32, 0x36#32, 0x37#32, 0x38#32, 0x39#32].map decode =
      [.ok .pktCreate, .ok .pktAppend, .ok .pktSegFromBytes, .ok .pktVerifyCheckSum, .ok .pktGetTotalSize,
        .ok .pktVerifyID, .ok .pktGetParamCount, .ok .pktSegToBytes, .ok .pktFullyAnalyze, .ok .pktGetParameter] := by
  decide
theorem test_decode_terminal : [0x40#32, 0x41#32, 0x42#32, 0x43#32, 0x44#32, 0x45#32, 0x46#32].map decode =
    [.ok .termPut, .ok .termIsOnTaxiway, .ok .termPop, .ok .termArriveChunk, .ok .termTakeArrival,
      .ok .termArrivalInfo, .ok .termReset] := by decide
theorem test_decode_gate : [0x60#32, 0x61#32, 0x62#32, 0x63#32].map decode =
    [.ok .gateRequest, .ok .gateRead, .ok .gateStatus, .ok .gateDock] := by decide
theorem test_decode_illegal : [0x01#32, 0x14#32, 0x50#32, 0xFF#32, 0x80000000#32].map decode =
    [.error .opcodeUnlisted, .error .opcodeUnlisted, .error .opcodeUnlisted, .error .opcodeUnlisted,
      .error .mbzNonzero] := by decide
theorem test_table_word : decodeTableWord 32 0x43 = some .termArriveChunk ∧ decodeTableWord 32 0x47 = none := by decide

/-! ### One step of each command (vectors of 95_test_vectors.md; the names give the rows) -/

theorem test_nop : sees (·.result) (exec .nop { fresh .master with result := .failed }) = some .passed := by decide

/-- CH4 -/
theorem test_chunkEncode_CH4 : sees (fun t => (t.result, t.ret0)) (exec .chunkEncode
    (withArgs (fresh .master) 0x1FF 1)) = some (.passed, 0x1FF) := by decide
/-- CH8 -/
theorem test_chunkDecode_CH8 : sees (fun t => (t.ret0, t.ret1, t.ret2)) (exec .chunkDecode
    (withArgs (fresh .master) 0x3FF)) = some (3, 0xFF, 768) := by decide
/-- CH13 -/
theorem test_chunkToWire_CH13 : sees (fun t => (t.ret0, t.ret1)) (exec .chunkToWire
    (withArgs (fresh .master) 0x2FF)) = some (2, 0xFF) := by decide
/-- CH18b -/
theorem test_chunkFromWire_CH18b : sees (·.ret0) (exec .chunkFromWire
    (withArgs (fresh .master) 0x103 0x1AB)) = some 0x3AB := by decide
/-- SC2 -/
theorem test_scalarToBytes_SC2 : sees (fun t => (t.ret0, t.bwm)) (exec .scalarToBytes
    (withArgs (fresh .master) 4 0xFFFFFFFE 0xFFFFFFFF (rng 4 2))) = some (2, [(4, 0xFE), (5, 0xFF)]) := by decide
/-- SC4 -/
theorem test_scalarToBytes_SC4 : sees (fun t => (t.ret0, t.bwm)) (exec .scalarToBytes
    (withArgs (fresh .master) 0 0 0x80000000 (rng 7 1))) = some (1, [(7, 1)]) := by decide
/-- SC14 -/
theorem test_scalarToData_SC14 : sees (fun t => (t.ret0, t.ret1)) (exec .scalarToData
    (withArgs (withBwm (fresh .master) [0x80]) 2 0 0 (rng 0 1))) = some (0xFFFFFF80, 0xFFFFFFFF) := by decide
/-- SC19 -/
theorem test_scalarToData_SC19 : sees (fun t => (t.ret0, t.ret1)) (exec .scalarToData
    (withArgs (withBwm (fresh .master) [0x78, 0x56, 0x34, 0x12]) 3 0 0 (rng 0 4))) = some (0x5678, 0) := by decide
/-- SC24 -/
theorem test_scalarGetArraySize_SC24 : ([0, 1, 2, 3, 4, 5, 6, 7, 8, 9, 10, 11] : List Word).map
    (fun v => sees (·.ret0) (exec .scalarGetArraySize (withArgs (fresh .master) v))) =
      ([1, 1, 1, 2, 2, 4, 4, 8, 8, 4, 8, 0] : List Word).map some := by decide
/-- PK7: the source is read before the write -/
theorem test_pktCreate_PK7 : sees (fun t => (t.ret0, t.pwm)) (exec .pktCreate
    (withArgs (withPwm (fresh .master) [0x100, 0x001]) 0 (rng 0 2) (rng 0 4))) =
      some (4, [(0, 0x200), (1, 0x100), (2, 0x001), (3, 0x301)]) := by decide
/-- PK5 -/
theorem test_pktCreate_PK5 : sees (fun t => (t.result, t.pwm.length)) (exec .pktCreate
    (withArgs (withPwm (fresh .master) [0x100, 0x400]) 0 (rng 0 2) (rng 40 8))) = some (.crashed, 2) := by decide
/-- PK8 -/
theorem test_pktAppend_PK8 : sees (fun t => (t.ret0, t.pwm.drop 3)) (exec .pktAppend
    (withArgs (withPwm (fresh .master) [0x100, 0x001, 0x100]) (rng 0 2) (rng 2 1) (rng 8 3))) =
      some (3, [(8, 0x100), (9, 0x001), (10, 0x100)]) := by decide
/-- PK14 -/
theorem test_pktSegFromBytes_PK14 : sees (fun t => (t.ret0, t.pwm)) (exec .pktSegFromBytes
    (withArgs (withBwm (fresh .master) [0x78, 0x56, 0x34, 0x12]) (rng 0 4) (rng 0 5))) =
      some (5, [(0, 0x100), (1, 0x078), (2, 0x056), (3, 0x034), (4, 0x012)]) := by decide
/-- S7: the Div payload counts -/
theorem test_pktVerifyCheckSum_S7 : sees (fun t => (t.result, t.ret0)) (exec .pktVerifyCheckSum
    (withArgs (withPwm (fresh .master) [0x200, 0x105, 0x001, 0x306]) (rng 0 4))) = some (.passed, 4) := by decide
/-- PK23: the scan stops before the unwritten cells -/
theorem test_pktGetTotalSize_PK23 : sees (·.result) (exec .pktGetTotalSize
    (withArgs (withPwm (fresh .master) [0x200, 0x500]) (rng 0 4))) = some .crashed := by decide
/-- PK24 -/
theorem test_pktGetTotalSize_PK24 : sees (·.ret0) (exec .pktGetTotalSize
    (withArgs (withPwm (fresh .master) [0x200, 0x201, 0x300]) (rng 0 3))) = some 3 := by decide
/-- PK26, PK27 -/
theorem test_pktVerifyID_PK26 : ([0x208, 0x209, 0x214] : List Chunk).map (fun c => sees (fun t => (t.result, t.ret0))
    (exec .pktVerifyID (withArgs (withPwm (fresh .master) [c]) (rng 0 1)))) =
      [some (.passed, 8), some (.incompatibility, 0), some (.incompatibility, 0)] := by decide
/-- PK30 -/
theorem test_pktGetParamCount_PK30 : sees (·.ret0) (exec .pktGetParamCount
    (withArgs (withPwm (fresh .master) [0x200, 0x100, 0x001, 0x100, 0x302, 0x302]) (rng 0 6))) = some 2 := by decide
/-- PK33 -/
theorem test_pktSegToBytes_PK33 : sees (fun t => (t.ret0, t.bwm)) (exec .pktSegToBytes
    (withArgs (withPwm (fresh .master) [0x100, 0x0AB, 0x0CD]) (rng 0 3) (rng 0 2))) =
      some (2, [(0, 0xAB), (1, 0xCD)]) := by decide
/-- PK36 -/
theorem test_pktSegToBytes_PK36 : sees (fun t => (t.result, t.bwm)) (exec .pktSegToBytes
    (withArgs (withPwm (fresh .master) [0x100, 0x100]) (rng 0 2) (rng 0 4))) = some (.crashed, []) := by decide
/-- PK39 -/
theorem test_pktFullyAnalyze_PK39 : sees (fun t => (t.ret0, t.ret1, t.ret2)) (exec .pktFullyAnalyze
    (withArgs (withPwm (fresh .master) ping1) (rng 0 8))) = some (4, 1, 0) := by decide
/-- PK40 to PK43: the order of the checks -/
theorem test_pktFullyAnalyze_PK40 : ([[0x209, 0x301], [0x209, 0x300], [0x200, 0x001, 0x301],
    [0x200, 0x100, 0x201, 0x301]] : List (List Chunk)).map (fun cells => sees (·.result)
      (exec .pktFullyAnalyze (withArgs (withPwm (fresh .master) cells) (rng 0 cells.length)))) =
        [some .failed, some .incompatibility, some .crashed, some .crashed] := by decide
/-- PK48 -/
theorem test_pktGetParameter_PK48 : sees (fun t => (t.ret0, t.bwm)) (exec .pktGetParameter
    (withArgs (withPwm (fresh .master) [0x207, 0x100, 0x0FF, 0x100, 0x002, 0x301]) (rng 0 6) 1 (rng 20 4))) =
      some (1, [(20, 0x02)]) := by decide
/-- TE19: a duplicate is tested before the capacity -/
theorem test_termPut_TE19 : ([9, 5] : List Word).map (fun id => sees (fun t => (t.result, t.departureStatus))
    (exec .termPut (withArgs { fresh .master with tax := [5, 6, 7, 8], departureStatus := .departureAvailable } id))) =
      [some (.failed, .notEnoughSpace), some (.failed, .departureAvailable)] := by decide
/-- TE20 -/
theorem test_termIsOnTaxiway_TE20 : ([7, 9, 0x105] : List Word).map (fun id => sees (·.ret0)
    (exec .termIsOnTaxiway (withArgs { fresh .master with tax := [5, 6, 7, 8] } id))) =
      [some 1, some 0, some 1] := by decide
/-- TE21 -/
theorem test_termPop_TE21 : sees (fun t => (t.ret0, t.tax, t.departureStatus))
    (exec .termPop { fresh .master with tax := [5, 6] }) = some (5, [6], .departureAvailable) := by decide
/-- TE2: the Check chunk completes the plane -/
theorem test_termArriveChunk_TE2 : sees (fun t => (t.ret0, t.arrivalInfoWord, t.events)) (exec .termArriveChunk
    (withArgs { fresh .master with
      autoDock := false, arrState := .receiving, arrBuf := [0x205, 0x100, 0x001], runSum := 1, receivingID := 5 }
      0x301)) = some (2, 0x01000405, 0x04000) := by decide
/-- TE16: with AUTO_DOCK a slave docks the Ping and queues its echo in the same step -/
theorem test_termArriveChunk_TE16 : sees (fun t => (t.ret0, t.events, t.tax, gateView t 0)) (exec .termArriveChunk
    (withArgs { fresh .slave with arrState := .receiving, arrBuf := [0x200, 0x100, 0x001], runSum := 1 } 0x301)) =
      some (0, 0x24000, [0], some ⟨.readyForDeparture, .passed, 0, ping1, [[1]]⟩) := by decide
/-- TE3 -/
theorem test_termTakeArrival_TE3 : sees (fun t => (t.ret0, t.ret1, t.pwm, t.statusWord)) (exec .termTakeArrival
    (withArgs { fresh .master with
      arrState := .complete, packetAvailable := true, arrivalStatus := .arrivalReady,
      arrBuf := [0x205, 0x100, 0x001, 0x301], runSum := 1, receivingID := 5 } (rng 0 8))) =
      some (4, 5, [(0, 0x205), (1, 0x100), (2, 0x001), (3, 0x301)], 0) := by decide
/-- TE14 -/
theorem test_termArrivalInfo_TE14 : sees (fun t => (t.ret0, t.ret1, t.ret2, t.ret3)) (exec .termArrivalInfo
    { fresh .master with arrState := .receiving, arrBuf := [0x207, 0x100, 0x003], runSum := 3, receivingID := 7 }) =
      some (7, 3, 3, 1) := by decide
/-- TE23 -/
theorem test_termReset_TE23 : sees (fun t => (t.statusWord, t.events, t.autoDock)) (exec .termReset
    { fresh .master with
      tax := [5], departureStatus := .departureAvailable, arrState := .receiving, arrBuf := [0x203], receivingID := 3,
      events := 1 }) = some (0, 1, true) := by decide
/-- GA1 -/
theorem test_gateRequest_GA1 : sees (fun t => (t.ret0, t.statusWord, gateView t 0)) (exec .gateRequest
    (withArgs (withBwm (fresh .master) [1, 1, 0, 0]) 0 (rng 0 2))) =
      some (4, 0x00010300, some ⟨.readyForDeparture, .passed, 0, ping1, []⟩) := by decide
/-- GA12: one chunk more than the gate's largest plane -/
theorem test_gateRequest_GA12 : sees (·.result) (exec .gateRequest
    (withArgs (withBwm (fresh .master) [0x06, 0x68, 0x65, 0x6C, 0x6C, 0x6F, 0x21, 0x00]) 7 (rng 0 7))) =
      some .failed := by decide

/-- EX1 with one gate in a given state. -/
def withGate (r : Role) (id : Byte) (f : Gate → Gate) : State := (fresh r).updateGate id f

/-- R206: the record of a docked Ping, and the gate Cleaned again -/
theorem test_gateRead : sees (fun t => (t.ret0, t.ret1, t.bwm, gateView t 0)) (exec .gateRead
    (withArgs (withGate .master 0 fun g => { g with status := .availableArrival, arrParams := [[1]] }) 0 (rng 16 8))) =
      some (2, 1, [(16, 1), (17, 1)], some ⟨.cleaned, .passed, 0, [], [[1]]⟩) := by decide
/-- S19 -/
theorem test_gateRead_S19 : sees (fun t => (t.result, t.bwm)) (exec .gateRead
    (withArgs (fresh .master) 0 (rng 16 8))) = some (.bypassed, []) := by decide
/-- GA2 -/
theorem test_gateStatus_GA2 : sees (fun t => (t.ret0, t.ret1, t.ret2, t.ret3)) (exec .gateStatus
    (withArgs (withGate .master 0 fun g => { g with status := .readyForDeparture }) 0)) =
      some (1, 0, 0, 1000) := by decide
/-- R200: an answer the master waits for -/
theorem test_gateDock_master : sees (fun t => (t.result, t.events, gateView t 0)) (exec .gateDock
    (withArgs (withPwm (withGate .master 0 fun g => { g with status := .awaitingArrival }) ping1) (rng 0 4))) =
      some (.passed, 0x02000, some ⟨.availableArrival, .passed, 0, [], [[1]]⟩) := by decide
/-- R211: a plane without a gate is answered with ERR4 -/
theorem test_gateDock_error : sees (fun t => (t.result, t.tax, t.errPlane.chunks)) (exec .gateDock
    (withArgs (withPwm (fresh .slave) [0x214, 0x300]) (rng 0 2))) =
      some (.incompatibility, [8], [0x208, 0x100, 0x004, 0x304]) := by decide

/-! ### The host bus, the tick and the link -/

/-- 95_test_vectors.md 0.2: the registers after reset -/
theorem test_reset_registers : [0x000, 0x004, 0x008, 0x00C, 0x020, 0x034, 0x03C, 0x044, 0x04C].map
    (readRegister (fresh .slave)) = [0x107, 0x5, 0, 0, 0, 0, 0, 0, 0x00040008] := by decide
/-- RW2 on the state a byte before: the last byte of a Ping arrives, and one tick docks it, answers and sends -/
theorem test_tick_RW2 : (let t := tick { fresh .slave with rxFifo := [2, 0, 1, 0, 0, 1, 3, 1] }
    (t.txQueue, t.events, t.statusWord, t.txInfoWord, gateView t 0)) =
      ([2, 0], 0x24000, 0x0000A000, 0x00040001, some ⟨.justLeft, .passed, 1, ping1, [[1]]⟩) := by decide
/-- RW4 -/
theorem test_tick_RW4 : (let t := tick { fresh .slave with rxFifo := [4, 0] }
    (t.events, t.arrState, t.rxLatchValid)) = (0x00040, .idle, false) := by decide
/-- RW10 -/
theorem test_tick_RW10 : (let t := tick { fresh .master with tax := [3], departureStatus := .departureAvailable }
    (t.events, t.statusWord)) = (0x00100, 0x00005000) := by decide
/-- A Request queued at gate 0, with a timer past the timeout. -/
def queued : State :=
  { withGate .master 0 (fun g => { g with status := .readyForDeparture, depPlane := ping1, timer := 5000 }) with
    tax := [0] }

def statusOf (s : State) : Option GateStatus := (s.gate? 0).map (·.status)

/-- R258: a Request whose ID TERM_POP or TERM_RESET removed stays in ReadyForDeparture, through a tick too, GATE_REQUEST
refuses the gate, and a block reset frees it. -/
theorem test_removed_id_R258 : ([.termPop, .termReset] : List Instr).map (fun i => sees (fun t =>
    (t.tax, statusOf (tick t), sees (·.result) (exec .gateRequest t), statusOf (t.blockReset))) (exec i queued)) =
      [some ([], some .readyForDeparture, some .failed, some .cleaned),
        some ([], some .readyForDeparture, some .failed, some .cleaned)] := by decide
/-- R220: the timeout is strict -/
theorem test_tick_timeout : ([999, 1000] : List Word).map (fun n =>
    let t := tick (withGate .master 0 fun g => { g with status := .awaitingArrival, timer := n })
    ((gateView t 0).map (·.status), t.events)) = [(some .awaitingArrival, 0), (some .cleaned, 0x01000)] := by decide
/-- R66: a host word is four bytes, the least significant at the lowest address -/
theorem test_bus_bwm : sees (fun t => t.bwm) (step { fresh .master with inputs := [.hostWrite 0x10004 32 0x00006F6C] }) =
    some [(4, 0x6C), (5, 0x6F), (6, 0), (7, 0)] := by decide
/-- R67: a host read of an unwritten cell -/
theorem test_bus_uninit : faultOf (step { fresh .master with inputs := [.hostRead 0x20000 32] }) =
    some .uninitRead := by decide
/-- R71: an access of another width, off a word boundary, or outside the windows -/
theorem test_bus_refused : ([.hostRead 0x00008 16, .hostRead 0x0000A 32, .hostWrite 0x00100 32 0, .hostWrite 0x10040 32 0,
    .hostRead 0x20100 32] : List Input).map (fun i => faultOf (step { fresh .master with inputs := [i] })) =
      List.replicate 5 (some .busRefused) := by decide
/-- R36, R32: EVENTS is cleared by ones, and SOFT_RESET resets -/
theorem test_bus_events : sees (·.events) (step { fresh .master with
    events := 0x24000, inputs := [.hostWrite 0x0003C 32 0x04000] }) = some 0x20000 := by decide
theorem test_bus_reset : sees (fun t => (t.ctrlWord, t.arg0, t.events, t.bwm)) (step { withBwm (fresh .master) [1] with
    arg0 := 5, events := 1, mode := .rejectIncoming, inputs := [.hostWrite 0x00004 32 0x0000A] }) =
      some (5, 0, 0, []) := by decide
/-- R168, R169 -/
theorem test_link_overrun : sees (fun t => (t.rxFifo.length, t.events)) (step { fresh .master with
    rxFifo := List.replicate 16 0, inputs := [.rxByte 7] }) = some (16, 0x00080) := by decide
theorem test_link_take : sees (·.txQueue) (step { fresh .master with txQueue := [2, 8], inputs := [.txTake] }) =
    some [8] := by decide
/-- R244: the wire takes a byte from the one block to the other -/
theorem test_wire : (match duplexStep .wireAB ⟨{ fresh .master with txQueue := [2, 0] }, fresh .slave⟩ with
    | .next d => some (d.a.txQueue, d.b.rxFifo)
    | .fault _ => none
    | .refused _ => none) = some ([0], [2]) := by decide
/-- The very next step runs the command word that was placed. -/
theorem test_withFetchWord : step ((fresh .master).withFetchWord 32 0x46) = exec .termReset (fresh .master) := by rfl

/-! ### Witnesses: encoding, chunk and scalar statements -/

theorem witness_StepRunsDecodedCommand : ∃ (s : State) (w : Word) (rest : List Input) (i : Instr),
    s.inputs = cmdWrite w :: rest ∧ decode w = .ok i :=
  ⟨{ fresh .master with inputs := [cmdWrite 0x63, .tick] }, 0x63, [.tick], .gateDock, rfl, by decide⟩

/-- Both ends of every range of R89: each word is illegal and its step is the illegal command's. -/
theorem witness_SystemCommands : ∀ w ∈ ([0x01, 0x0F, 0x14, 0x1F, 0x23, 0x2F, 0x3A, 0x3F, 0x47, 0x5F, 0x64, 0xFF, 0x100,
    0xFFFFFFFF] : List Word),
    (256 ≤ w.toNat ∨ (0x01 ≤ w.toNat ∧ w.toNat ≤ 0x0F) ∨ (0x14 ≤ w.toNat ∧ w.toNat ≤ 0x1F) ∨
      (0x23 ≤ w.toNat ∧ w.toNat ≤ 0x2F) ∨ (0x3A ≤ w.toNat ∧ w.toNat ≤ 0x3F) ∨
      (0x47 ≤ w.toNat ∧ w.toNat ≤ 0x5F) ∨ (0x64 ≤ w.toNat ∧ w.toNat ≤ 0xFF)) ∧
    sees (fun t => (t.result, t.events)) (step { fresh .master with inputs := [cmdWrite w] }) =
      some (.incompatibility, 0x08000) := by
  simp only [List.forall_mem_cons, List.not_mem_nil, false_implies, implies_true, and_true]
  and_intros <;> decide

/-- Types 3 and 4. -/
theorem witness_ChunkEncode : ([3, 4] : List Word).map (fun v => sees (·.result) (exec .chunkEncode
    (withArgs (fresh .master) 0 v))) = [some .passed, some .failed] := by decide
/-- Chunks 1023 and 1024. -/
theorem witness_ChunkDecode : ([1023, 1024] : List Word).map (fun v => sees (·.result) (exec .chunkDecode
    (withArgs (fresh .master) v))) = [some .passed, some .incompatibility] := by decide
/-- Chunks 1023 and 1024, first bytes 3 and 4. -/
theorem witness_ChunkWireForms :
    ([1023, 1024] : List Word).map (fun v => sees (·.result) (exec .chunkToWire (withArgs (fresh .master) v))) =
        [some .passed, some .incompatibility] ∧
      ([3, 4] : List Word).map (fun v => sees (·.result) (exec .chunkFromWire (withArgs (fresh .master) v 0xFF))) =
        [some .passed, some .incompatibility] := by decide
theorem witness_ChunkRoundTrip : (withArgs (fresh .master) 0x3FF 3).arg1.toNat ≤ 3 ∧
    (withArgs (fresh .master) 0x3FF 3).arg0.toNat ≤ 1023 := by decide

/-- Each clause of SCALAR_TOBYTES and SCALAR_TODATA at the end of BWM: a range one cell too far, the tags 10, 11 and 12,
and a length one below the width and equal to it. -/
theorem witness_ScalarToBytes :
    (¬ InRange (rng 57 8) (fresh .master).params.bwmSize ∧ InRange (rng 56 8) (fresh .master).params.bwmSize ∧
      InRange (rng 57 7) (fresh .master).params.bwmSize) ∧
    ([(10, rng 57 8), (12, rng 56 8), (11, rng 56 8), (10, rng 57 7), (10, rng 56 8)] : List (Word × Word)).map
        (fun v => sees (·.result) (exec .scalarToBytes (withArgs (fresh .master) v.1 1 2 v.2))) =
      [some .failed, some .failed, some .bypassed, some .failed, some .passed] := by
  unfold InRange; decide
/-- As above, with bytes held, a Bool byte of 1 and of 2, and an unwritten byte. -/
theorem witness_ScalarToData :
    Holds (withBwm (fresh .master) [1, 2]).bwm 0 [1, 2] ∧ (withBwm (fresh .master) [1, 2]).bwm.read 2 = none ∧
    ([(0, rng 0 1), (0, rng 1 1), (3, rng 0 2), (3, rng 0 1), (11, rng 0 2), (12, rng 0 2), (3, rng 63 2)] :
        List (Word × Word)).map
        (fun v => sees (·.result) (exec .scalarToData (withArgs (withBwm (fresh .master) [1, 2]) v.1 0 0 v.2))) =
      [some .passed, some .failed, some .passed, some .failed, some .bypassed, some .failed, some .failed] ∧
    faultOf (exec .scalarToData (withArgs (withBwm (fresh .master) [1, 2]) 3 0 0 (rng 1 2))) = some .uninitRead := by
  unfold Holds; decide
theorem witness_ScalarGetArraySize : ([11, 12] : List Word).map (fun v => sees (·.result) (exec .scalarGetArraySize
    (withArgs (fresh .master) v))) = [some .passed, some .failed] := by decide
/-- The ends of the values of a Bool, a U8, an I16 and a U64, and the range that just holds each. -/
theorem witness_ScalarRoundTrip : ∀ v ∈ ([(0, 1, 0, rng 63 1), (1, 255, 0, rng 63 1),
    (4, 0xFFFF8000, 0xFFFFFFFF, rng 62 2), (4, 0x7FFF, 0, rng 62 2), (7, 0xFFFFFFFF, 0xFFFFFFFF, rng 56 8)] :
      List (Word × Word × Word × Word)),
    InRange v.2.2.2 (fresh .master).params.bwmSize ∧ v.1.toNat < 11 ∧ widthOfTag v.1.toNat ≤ rangeLen v.2.2.2 ∧
      Representable v.1.toNat (v.2.2.1.toNat * 2 ^ 32 + v.2.1.toNat) := by
  unfold InRange Representable
  simp only [List.forall_mem_cons, List.not_mem_nil, false_implies, implies_true, and_true]; decide

/-! ### Witnesses: packet statements -/

/-- Source of 2 cells; a destination of 3 cells, of 4 cells at the end of PWM, and one cell beyond it; a source that holds
a value above 1023. -/
theorem witness_PktCreate :
    InRange (rng 0 2) (fresh .master).params.pwmSize ∧ InRange (rng 60 4) (fresh .master).params.pwmSize ∧
      ¬ InRange (rng 61 4) (fresh .master).params.pwmSize ∧ rangeLen (rng 0 2) + 2 ≤ rangeLen (rng 60 4) ∧
      rangeLen (rng 60 3) < rangeLen (rng 0 2) + 2 ∧
      Holds (withPwm (fresh .master) [0x100, 0x3FF, 0x400]).pwm (rangeAddr (rng 0 2)) [0x100, 0x3FF] ∧
    ([(rng 0 2, rng 60 4), (rng 0 2, rng 61 4), (rng 0 2, rng 60 3), (rng 1 2, rng 60 4)] : List (Word × Word)).map
        (fun v => sees (·.result)
          (exec .pktCreate (withArgs (withPwm (fresh .master) [0x100, 0x3FF, 0x400]) 0 v.1 v.2))) =
      [some .passed, some .failed, some .failed, some .crashed] ∧
    faultOf (exec .pktCreate (withArgs (withPwm (fresh .master) [0x100, 0x400]) 0 (rng 1 2) (rng 60 4))) =
      some .uninitRead := by
  unfold InRange Holds; decide
/-- A destination that just holds both ranges, one cell beyond PWM, and one cell too short; an unwritten cell at the end of
either range. -/
theorem witness_PktAppend :
    Holds (withPwm (fresh .master) [0x100, 0x001, 0x500]).pwm (rangeAddr (rng 0 2)) [0x100, 0x001] ∧
      Holds (withPwm (fresh .master) [0x100, 0x001, 0x500]).pwm (rangeAddr (rng 2 1)) [0x500] ∧
    ([rng 61 3, rng 62 3, rng 61 2] : List Word).map (fun v => sees (·.result)
        (exec .pktAppend (withArgs (withPwm (fresh .master) [0x100, 0x001, 0x500]) (rng 0 2) (rng 2 1) v))) =
      [some .passed, some .failed, some .failed] ∧
    ([(rng 2 2, rng 0 1), (rng 0 1, rng 2 2)] : List (Word × Word)).map (fun v => faultOf
        (exec .pktAppend (withArgs (withPwm (fresh .master) [0x100, 0x001, 0x500]) v.1 v.2 (rng 61 3)))) =
      [some .uninitRead, some .uninitRead] := by
  unfold Holds; decide
/-- As above. -/
theorem witness_PktSegFromBytes :
    Holds (withBwm (fresh .master) [0x78, 0x56]).bwm (rangeAddr (rng 0 2)) [0x78, 0x56] ∧
    ([rng 61 3, rng 62 3, rng 61 2] : List Word).map (fun v => sees (·.result)
        (exec .pktSegFromBytes (withArgs (withBwm (fresh .master) [0x78, 0x56]) (rng 0 2) v))) =
      [some .passed, some .failed, some .failed] ∧
    faultOf (exec .pktSegFromBytes (withArgs (withBwm (fresh .master) [0x78, 0x56]) (rng 1 2) (rng 61 3))) =
      some .uninitRead := by
  unfold Holds; decide

/-- PING1 scans as a plane, in a range that ends with it and in a longer one. -/
theorem witness_CommandsOverAPlane : ∀ v ∈ ([rng 0 4, rng 0 64] : List Word),
    ScansAs (withArgs (withPwm (fresh .master) ping1) v) v 0x200 [0x100, 0x001] 0x301 := by
  unfold ScansAs InRange Holds
  simp only [List.forall_mem_cons, List.not_mem_nil, false_implies, implies_true, and_true]; decide
/-- The four ways of R118 to find no plane, a range one cell too long, and an unwritten cell first and after one chunk. -/
theorem witness_ScanFailures :
    ¬ InRange (rng 61 4) (fresh .master).params.pwmSize ∧
    ScanFails (fresh .master) (rng 64 0) .incompatibility ∧
    ScanFails (withPwm (fresh .master) [0x300]) (rng 0 1) .incompatibility ∧
    ScanFails (withPwm (fresh .master) [0x200, 0x2FF]) (rng 0 2) .crashed ∧
    ScanFails (withPwm (fresh .master) [0x200, 0x400]) (rng 0 4) .crashed ∧
    ScanMeetsUnwritten (fresh .master) (rng 63 1) ∧
    ScanMeetsUnwritten (withPwm (fresh .master) [0x200]) (rng 0 2) := by
  have hmid : ∀ c ∈ ([0x2FF] : List Chunk), c.toNat < 768 := by
    simp only [List.forall_mem_cons, List.not_mem_nil, false_implies, implies_true, and_true]; decide
  refine ⟨by unfold InRange; decide, ⟨by unfold InRange; decide, .inl ⟨rfl, by decide⟩⟩,
    ⟨by unfold InRange; decide, .inr (.inl ⟨0x300, rfl, by decide, by decide, by decide⟩)⟩,
    ⟨by unfold InRange; decide, .inr (.inr ⟨0x200, [0x2FF], rfl, by decide, hmid, ?_, .inl (by decide)⟩)⟩,
    ⟨by unfold InRange; decide, .inr (.inr ⟨0x200, [], rfl, by decide, by simp, ?_,
      .inr ⟨0x400, by decide, by decide, by decide⟩⟩)⟩,
    ⟨by unfold InRange; decide, .inl (by decide)⟩,
    ⟨by unfold InRange; decide, .inr ⟨0x200, [], by decide, by simp, ?_, by decide, by decide⟩⟩⟩ <;>
    (unfold Holds; decide)
/-- IDs 8 and 9, a Check chunk, no cell, and a range one cell too far; an unwritten cell. -/
theorem witness_PktVerifyID :
    ([(0x208, rng 0 1), (0x209, rng 0 1), (0x308, rng 0 1), (0x208, rng 0 0), (0x208, rng 64 1)] :
        List (Chunk × Word)).map
        (fun v => sees (·.result) (exec .pktVerifyID (withArgs (withPwm (fresh .master) [v.1]) v.2))) =
      [some .passed, some .incompatibility, some .incompatibility, some .incompatibility, some .failed] ∧
    faultOf (exec .pktVerifyID (withArgs (fresh .master) (rng 63 1))) = some .uninitRead := by decide
/-- A destination that just holds the bytes and one that does not; a range that begins with no Div; a bad cell after one
Byte chunk; no cell; an unwritten cell first and after the Div. -/
theorem witness_PktSegToBytes :
    Holds (withPwm (fresh .master) [0x100, 0x0AB, 0x100]).pwm (rangeAddr (rng 0 2) + 1)
      (([0xAB] : List Byte).map fun b => BitVec.ofNat 16 b.toNat) ∧
    Holds (withPwm (fresh .master) [0x100, 0x0AB, 0x100]).pwm (rangeAddr (rng 0 3) + 1)
      (([0xAB] : List Byte).map (fun b => BitVec.ofNat 16 b.toNat) ++ [0x100]) ∧
    ([(rng 0 2, rng 63 1), (rng 0 2, rng 63 0), (rng 1 1, rng 0 1), (rng 0 3, rng 0 2), (rng 0 0, rng 0 1)] :
        List (Word × Word)).map
        (fun v => sees (·.result)
          (exec .pktSegToBytes (withArgs (withPwm (fresh .master) [0x100, 0x0AB, 0x100]) v.1 v.2))) =
      [some .passed, some .failed, some .failed, some .crashed, some .failed] ∧
    ([(rng 3 1, [0x100, 0x0AB, 0x100]), (rng 0 2, [0x100])] : List (Word × List Chunk)).map (fun v => faultOf
        (exec .pktSegToBytes (withArgs (withPwm (fresh .master) v.2) v.1 (rng 0 1)))) =
      [some .uninitRead, some .uninitRead] := by
  unfold Holds; decide
/-- A plane for each clause: it passes, its sum is wrong, its ID is not supported, it holds a Start, its first chunk is no
Div. -/
theorem witness_PktFullyAnalyze :
    ([[0x200, 0x100, 0x001, 0x301], [0x200, 0x100, 0x001, 0x302], [0x209, 0x300], [0x200, 0x100, 0x200, 0x300],
      [0x200, 0x001, 0x301]] : List (List Chunk)).map
        (fun cells => sees (·.result)
          (exec .pktFullyAnalyze (withArgs (withPwm (fresh .master) cells) (rng 0 cells.length)))) =
      [some .passed, some .failed, some .incompatibility, some .crashed, some .crashed] ∧
    ScansAs (withPwm (fresh .master) [0x209, 0x300]) (rng 0 2) 0x209 [] 0x300 := by
  unfold ScansAs InRange Holds
  simp only [List.not_mem_nil, false_implies, implies_true]; decide
/-- Two parameters after Div chunks of payloads 0 and 5: the index of the last one and the next, a destination of its size
and of one byte less, and a bad range of each kind. Then a wrong Check, an unsupported ID and a bad structure. -/
theorem witness_PktGetParameter :
    ScansAs (withPwm (fresh .master) [0x207, 0x100, 0x0FF, 0x105, 0x002, 0x306]) (rng 0 6) 0x207
      [0x100, 0x0FF, 0x105, 0x002] 0x306 ∧
    ([(0, [0xFF]), (5, [0x02])] : List (Byte × List Byte)).flatMap (fun p => segmentOf p.1 p.2) =
      [0x100, 0x0FF, 0x105, 0x002] ∧
    ([(rng 0 6, 1, rng 63 1), (rng 0 6, 2, rng 63 1), (rng 0 6, 1, rng 64 0), (rng 0 6, 1, rng 64 1),
      (rng 59 6, 1, rng 63 1)] : List (Word × Word × Word)).map
        (fun v => sees (·.result) (exec .pktGetParameter
          (withArgs (withPwm (fresh .master) [0x207, 0x100, 0x0FF, 0x105, 0x002, 0x306]) v.1 v.2.1 v.2.2))) =
      [some .passed, some .failed, some .failed, some .failed, some .failed] ∧
    ([[0x207, 0x100, 0x301], [0x209, 0x100, 0x300], [0x207, 0x001, 0x301]] : List (List Chunk)).map
        (fun cells => sees (·.result)
          (exec .pktGetParameter (withArgs (withPwm (fresh .master) cells) (rng 0 3) 0 (rng 0 1)))) =
      [some .failed, some .incompatibility, some .crashed] := by
  unfold ScansAs InRange Holds
  simp only [List.forall_mem_cons, List.not_mem_nil, false_implies, implies_true, and_true]; decide
theorem witness_CreatedPlaneVerifies :
    Holds (withPwm (fresh .master) [0x100, 0x001]).pwm (rangeAddr (rng 0 2)) [0x100, 0x001] ∧
      (∀ c ∈ ([0x100, 0x001] : List Chunk), c.toNat / 256 ≠ 3) ∧
      sees (fun t => (t.result, t.ret0)) (exec .pktCreate
        (withArgs (withPwm (fresh .master) [0x100, 0x001]) 0 (rng 0 2) (rng 4 8))) = some (.passed, 4) ∧
      rangeAddr (rng 4 4) = rangeAddr (rng 4 8) ∧ rangeLen (rng 4 4) = 4 := by
  unfold Holds
  simp only [List.forall_mem_cons, List.not_mem_nil, false_implies, implies_true, and_true]; decide
theorem witness_ChangedPayloadFailsChecksum :
    ScansAs (withPwm (fresh .master) ping1) (rng 0 4) 0x200 ([0x100] ++ 0x001 :: []) 0x301 ∧
      ScansAs (withPwm (fresh .master) [0x200, 0x100, 0x0FF, 0x301]) (rng 0 4) 0x200 ([0x100] ++ 0x0FF :: []) 0x301 ∧
      sees (·.result) (exec .pktVerifyCheckSum (withArgs (withPwm (fresh .master) ping1) (rng 0 4))) = some .passed := by
  unfold ScansAs InRange Holds
  simp only [List.cons_append, List.nil_append, List.forall_mem_cons, List.not_mem_nil, false_implies, implies_true, and_true]
  decide

/-! ### Witnesses: terminal statements -/

/-- A queued ID, a full taxiway, and a taxiway with one place left. -/
theorem witness_TermPut : ([[1, 2, 3], [2, 3, 4, 5], [2, 3, 4]] : List (List Byte)).map (fun tax =>
    sees (fun t => (t.result, t.tax.length)) (exec .termPut (withArgs { fresh .master with tax := tax } 1))) =
      [some (.failed, 3), some (.failed, 4), some (.passed, 4)] := by decide
theorem witness_TermPop : ([[], [8], [8, 1]] : List (List Byte)).map (fun tax =>
    sees (fun t => (t.result, t.departureStatus)) (exec .termPop { fresh .master with tax := tax })) =
      [some (.unecessary, .initialised), some (.passed, .initialised), some (.passed, .departureAvailable)] := by decide
theorem witness_TaxiwayCapacity : (fresh .master).tax = [] ∧ ([1, 2, 3, 4, 255] : List Byte).Nodup ∧
    ([1, 2, 3, 4, 255] : List Byte).length = (fresh .master).params.sizeOfDepartureTaxiway + 1 ∧
    (2 : Byte) ∈ ({ fresh .master with tax := [1, 2] } : State).tax := by decide
/-- The chunks at the ends of the clauses: 1024 is refused; 512 and 767 begin a plane in Idle and in Receiving; 511 and
1023 are strays in Idle. -/
theorem witness_ArriveStartOrStray :
    ([1024, 512, 767, 511, 1023] : List Word).map (fun v => sees (fun t => (t.result, t.arrState))
      (exec .termArriveChunk (withArgs (fresh .master) v))) =
        [some (.incompatibility, .idle), some (.passed, .receiving), some (.passed, .receiving),
          some (.passed, .idle), some (.passed, .idle)] ∧
    sees (·.events) (exec .termArriveChunk (withArgs { fresh .master with arrState := .receiving, arrBuf := [0x200] }
      512)) = some 0x00008 := by decide
/-- Chunk 511 with 6 and with 7 of 8 chunks stored, and in reject-incoming mode. -/
theorem witness_ArrivePayload :
    ([(6, .regular), (7, .regular), (7, .rejectIncoming)] : List (Nat × TermMode)).map (fun v =>
      sees (fun t => (t.ret0, t.arrBuf.length)) (exec .termArriveChunk (withArgs { fresh .master with
        mode := v.2, arrState := .receiving, arrBuf := List.replicate v.1 0x200 } 511))) =
        [some (1, 7), some (0, 0), some (1, 7)] := by decide
/-- Check 768 and 1023 against sums 0 and 255, matching and not, in both modes. -/
theorem witness_ArriveCheck :
    ([(768, 0, .regular), (1023, 255, .regular), (1023, 254, .regular), (768, 0, .rejectIncoming),
      (768, 1, .rejectIncoming)] : List (Word × Byte × TermMode)).map (fun v =>
      sees (fun t => (t.ret0, t.events)) (exec .termArriveChunk (withArgs { fresh .master with
        autoDock := false, mode := v.2.2, arrState := .receiving, arrBuf := [0x200], runSum := v.2.1 } v.1))) =
        [some (2, 0x04000), some (2, 0x04000), some (0, 0x00002), some (0, 0x00020), some (0, 0x00002)] := by decide
/-- The last chunk of a Ping with AUTO_DOCK 1, and the same Ping in PWM for GATE_DOCK: both dock it. -/
theorem witness_ArriveCheck_docked :
    (let s := withArgs { fresh .slave with arrState := .receiving, arrBuf := [0x200, 0x100, 0x001], runSum := 1 } 0x301
    s.arg0.toNat / 256 = 3 ∧ s.mode = .regular ∧ s.autoDock = true ∧ s.arg0.toNat % 256 = s.runSum.toNat ∧
      ScansAs (withPwm s ping1) (rng 0 4) 0x200 [0x100, 0x001] (BitVec.ofNat 16 s.arg0.toNat) ∧
      sees (fun t => (t.tax, t.gates)) (exec .termArriveChunk s) =
        sees (fun t => (t.tax, t.gates)) (exec .gateDock (withArgs (withPwm (fresh .slave) ping1) (rng 0 4)))) := by
  unfold ScansAs InRange Holds
  simp only [List.forall_mem_cons, List.not_mem_nil, false_implies, implies_true, and_true]; decide
/-- Chunks 0 and 1023 while a plane is held, with AUTO_DOCK 0 and 1; and the held Ping in PWM for GATE_DOCK, which docks it
as the discarded chunk does. -/
theorem witness_ArriveWhileComplete :
    ([(0, false), (1023, false), (0, true), (1023, true)] : List (Word × Bool)).map (fun v =>
      sees (fun t => (t.ret0, t.arrState)) (exec .termArriveChunk (withArgs { fresh .master with
        autoDock := v.2, arrState := .complete, packetAvailable := true, arrBuf := ping1, runSum := 1 } v.1))) =
        [some (2, .complete), some (2, .complete), some (0, .idle), some (0, .idle)] ∧
    (let s := withArgs { fresh .slave with
      arrState := .complete, packetAvailable := true, arrBuf := ping1, runSum := 1 } 0
    s.autoDock = true ∧ ping1 = 0x200 :: ([0x100, 0x001] ++ [0x301]) ∧
      ScansAs (withPwm s ping1) (rng 0 4) 0x200 [0x100, 0x001] 0x301 ∧
      sees (fun t => (t.events, t.tax, gateView t 0)) (exec .termArriveChunk s) =
        some (0x20010, [0], some ⟨.readyForDeparture, .passed, 0, ping1, [[1]]⟩)) := by
  unfold ScansAs InRange Holds
  simp only [List.forall_mem_cons, List.not_mem_nil, false_implies, implies_true, and_true]; decide
/-- A plane of exactly SIZE_OF_ARRIVAL_PLANE chunks. -/
theorem witness_FeedingAPlaneCompletesIt :
    (∀ c ∈ ([0x100, 1, 1, 1, 1, 0x1FF] : List Chunk), c.toNat < 512) ∧
      ([0x100, 1, 1, 1, 1, 0x1FF] : List Chunk).length + 2 ≤ (fresh .master).params.sizeOfArrivalPlane ∧
      ({ fresh .master with autoDock := false } : State).arrState = .idle ∧
      availableAfterEach .termArriveChunk ((planeOf 255 [0x100, 1, 1, 1, 1, 0x1FF]).map fun c => BitVec.ofNat 32 c.toNat)
        { fresh .master with autoDock := false } = List.replicate 7 false ++ [true] := by
  simp only [List.forall_mem_cons, List.not_mem_nil, false_implies, implies_true, and_true]; decide
/-- No plane, a plane of 4 chunks into 3 cells and into 4 cells at the end of PWM, and one cell beyond it. -/
theorem witness_TermTakeArrival :
    ([(.idle, rng 60 4), (.complete, rng 60 3), (.complete, rng 60 4), (.complete, rng 61 4)] :
        List (ArrState × Word)).map (fun v =>
      sees (·.result) (exec .termTakeArrival (withArgs { fresh .master with
        arrState := v.1, arrBuf := ping1 } v.2))) =
        [some .bypassed, some .failed, some .passed, some .failed] := by decide

/-! ### Witnesses: gate statements -/

/-- A Ping Request with one place left on the taxiway. -/
theorem witness_GateRequestAccepted :
    (let s := withArgs { withBwm (fresh .master) [1, 1] with tax := [1, 2, 3] } 0 (rng 0 2)
    let g := Gate.fresh (Config.ex1Gate 0 [.bool] [.bool])
    DistinctGates s ∧ g ∈ s.gates ∧ s.arg0.toNat = g.conf.gateID.toNat ∧ s.params.role = .master ∧
      g.conf.gateID ≠ 8 ∧ g.status = .cleaned ∧ RecordsAt s s.arg1 [[1]] ∧
      (planeWith g.conf.gateID s.params.divPayload [[1]]).length ≤ g.conf.maxSizeOfPlane ∧
      TaxiwayTakes s g.conf.gateID) ∧ ParamsOK [[1]] [.bool] := by
  refine ⟨?_, .cons (.inr rfl) .nil⟩
  unfold DistinctGates RecordsAt TaxiwayTakes InRange Holds
  simp only [List.forall_mem_cons, List.not_mem_nil, false_implies, implies_true, and_true]
  decide

/-- Each refusal of GATE_REQUEST: a range beyond BWM; no gate 9 and no gate 0x100; a Slave; gate 8; a gate not Cleaned; a
record of one byte with none left; parameters of a wrong kind; a plane of 9 chunks; a queued ID; a full taxiway. -/
theorem witness_GateRequestRefused :
    ([withArgs (fresh .master) 0 (rng 63 2), withArgs (fresh .master) 9 (rng 64 0),
      withArgs (fresh .master) 0x100 (rng 64 0), withArgs (fresh .slave) 0 (rng 0 0),
      withArgs (fresh .master) 8 (rng 0 0),
      withArgs (withGate .master 0 fun g => { g with status := .justLeft }) 0 (rng 0 0),
      withArgs (withBwm (fresh .master) [1]) 0 (rng 0 1), withArgs (withBwm (fresh .master) [1, 2]) 0 (rng 0 2),
      withArgs (withBwm (fresh .master) [6, 1, 1, 1, 1, 1, 1]) 7 (rng 0 7),
      withArgs { withBwm (fresh .master) [1, 1] with tax := [0] } 0 (rng 0 2),
      withArgs { withBwm (fresh .master) [1, 1] with tax := [1, 2, 3, 4] } 0 (rng 0 2)] : List State).map
        (fun s => sees (fun t => (t.result, t.departureStatus)) (exec .gateRequest s)) =
      [some (.failed, .initialised), some (.incompatibility, .initialised), some (.incompatibility, .initialised),
        some (.failed, .initialised), some (.failed, .initialised), some (.failed, .initialised),
        some (.failed, .initialised), some (.failed, .initialised), some (.failed, .initialised),
        some (.failed, .initialised), some (.failed, .notEnoughSpace)] ∧
    Holds (withBwm (fresh .master) [1]).bwm 0 (recordBytes [] ++ [1]) ∧
    (let s := withArgs (withBwm (fresh .master) [1, 2]) 0 (rng 0 2)
    let g := Gate.fresh (Config.ex1Gate 0 [.bool] [.bool])
    DistinctGates s ∧ g ∈ s.gates ∧ s.arg0.toNat = g.conf.gateID.toNat ∧ InRange s.arg1 s.params.bwmSize ∧
      s.params.role = .master ∧ g.conf.gateID ≠ 8 ∧ g.status = .cleaned ∧ RecordsAt s s.arg1 [[2]]) ∧
    ¬ ParamsOK [[2]] [.bool] ∧ NamesNoGate (fresh .master) 9 ∧ NamesNoGate (fresh .master) 0x100 := by
  refine ⟨by decide, by unfold Holds; decide, ?_, by rw [← typesOK_iff]; decide, ?_, ?_⟩
  · unfold DistinctGates RecordsAt InRange Holds
    simp only [List.forall_mem_cons, List.not_mem_nil, false_implies, implies_true, and_true]
    decide
  all_goals (intro g hg; fin_cases hg <;> decide)

/-- A gate without an answer; an answer of 2 bytes into 1 byte, into 2 bytes at the end of BWM, and one byte beyond it; no
gate 9. -/
theorem witness_GateRead :
    (let s := withArgs (withGate .master 0 fun g => { g with status := .availableArrival, arrParams := [[1]] }) 0
      (rng 62 2)
    let g : Gate := { Gate.fresh (Config.ex1Gate 0 [.bool] [.bool]) with status := .availableArrival, arrParams := [[1]] }
    DistinctGates s ∧ g ∈ s.gates ∧ s.arg0.toNat = g.conf.gateID.toNat ∧ InRange s.arg1 s.params.bwmSize ∧
      (recordBytes g.arrParams).length ≤ rangeLen s.arg1 ∧ (g.arrParams.all fun B => B.length ≤ 255) = true) ∧
    ([withArgs (fresh .master) 0 (rng 62 2),
      withArgs (withGate .master 0 fun g => { g with status := .availableArrival, arrParams := [[1]] }) 0 (rng 62 1),
      withArgs (withGate .master 0 fun g => { g with status := .availableArrival, arrParams := [[1]] }) 0 (rng 62 2),
      withArgs (fresh .master) 0 (rng 63 2), withArgs (fresh .master) 9 (rng 62 2)] : List State).map
        (fun s => sees (·.result) (exec .gateRead s)) =
      [some .bypassed, some .failed, some .passed, some .failed, some .incompatibility] := by
  unfold DistinctGates InRange; decide

theorem witness_GateStatus :
    (let g := Gate.fresh (Config.ex1Gate 0 [.bool] [.bool])
    DistinctGates (fresh .master) ∧ g ∈ (fresh .master).gates ∧ (fresh .master).arg0.toNat = g.conf.gateID.toNat) ∧
    ([0, 8, 9, 0x100, 0xFFFFFFFF] : List Word).map (fun v => sees (·.result) (exec .gateStatus
      (withArgs (fresh .master) v))) =
      [some .passed, some .passed, some .incompatibility, some .incompatibility, some .incompatibility] := by
  unfold DistinctGates; decide

/-- An answer of two parameters after Div chunks of payloads 0 and 5, awaited and not, in the smallest range that holds
it. -/
theorem witness_GateDockAnswerOnMaster :
    (let f (st : GateStatus) (g : Gate) : Gate := { g with status := st, conf := { g.conf with arriveTypes := [.u8, .u8] } }
    let s (st : GateStatus) : State :=
      withArgs (withPwm (withGate .master 1 (f st)) [0x201, 0x100, 0x007, 0x105, 0x009, 0x315]) (rng 0 6)
    let g : Gate := f .awaitingArrival (Gate.fresh (Config.ex1Gate 1 [.u8] [.u8]))
    (DistinctGates (s .awaitingArrival) ∧ g ∈ (s .awaitingArrival).gates ∧ g.conf.gateID ≠ 8 ∧
      g.conf.gateID ∈ (s .awaitingArrival).params.supported ∧
      PlaneAt (s .awaitingArrival) (rng 0 6) g.conf.gateID [0x100, 0x007, 0x105, 0x009] ∧
      ([0x100, 0x007, 0x105, 0x009] : List Chunk).length + 2 ≤ g.conf.maxSizeOfPlane) ∧
    ([.awaitingArrival, .cleaned] : List GateStatus).map (fun st =>
      sees (fun t => (t.result, (gateView t 1).map (·.arrParams))) (exec .gateDock (s st))) =
      [some (.passed, some [[7], [9]]), some (.unecessary, some [])]) ∧
    ([(0, [7]), (5, [9])] : List (Byte × List Byte)).flatMap (fun p => segmentOf p.1 p.2) =
      [0x100, 0x007, 0x105, 0x009] ∧ ParamsOK [[7], [9]] [.u8, .u8] := by
  refine ⟨?_, by decide, .cons rfl (.cons rfl .nil)⟩
  unfold DistinctGates PlaneAt ScansAs InRange Holds
  simp only [List.forall_mem_cons, List.not_mem_nil, false_implies, implies_true, and_true]
  decide

/-- A Ping of true at a Cleaned gate with a free taxiway; then, with what departureStatus says, at a Cleaned gate whose ID
is queued, with a full taxiway (GA34), at a busy gate, and at a gate whose answer is of the wrong kinds. -/
theorem witness_GateDockRequestOnSlave :
    (let s := withArgs (withPwm (fresh .slave) ping1) (rng 0 4)
    let g := Gate.fresh (Config.ex1Gate 0 [.bool] [.bool])
    DistinctGates s ∧ g ∈ s.gates ∧ g.conf.gateID ≠ 8 ∧ s.params.role = .slave ∧
      g.conf.gateID ∈ s.params.supported ∧ PlaneAt s s.arg0 g.conf.gateID [0x100, 0x001] ∧
      ([0x100, 0x001] : List Chunk).length + 2 ≤ g.conf.maxSizeOfPlane ∧ g.status = .cleaned ∧
      (planeWith g.conf.gateID s.params.divPayload [[1]]).length ≤ g.conf.maxSizeOfPlane ∧ TaxiwayTakes s 0) ∧
    ([(0, [1])] : List (Byte × List Byte)).flatMap (fun p => segmentOf p.1 p.2) = [0x100, 0x001] ∧
    ParamsOK [[1]] [.bool] ∧ AnswersWith (fresh .slave).params 0 [[1]] (some [[1]]) ∧
    ([withPwm { fresh .slave with tax := [0] } ping1, withPwm { fresh .slave with tax := [1, 2, 3, 4] } ping1,
      withPwm (withGate .slave 0 fun g => { g with status := .justLeft }) ping1,
      withPwm (withGate .slave 0 fun g => { g with conf := { g.conf with departTypes := [.u16] } }) ping1] :
        List State).map (fun s => sees (fun t => (t.result, t.departureStatus, t.events))
          (exec .gateDock (withArgs s (rng 0 4)))) =
      [some (.failed, .initialised, 0x00100), some (.failed, .notEnoughSpace, 0x00100),
        some (.failed, .departureAvailable, 0x00200), some (.failed, .initialised, 0x00100)] := by
  refine ⟨?_, by decide, .cons (.inr rfl) .nil, ⟨fun _ => rfl, fun _ h _ => absurd rfl h⟩, by decide⟩
  unfold DistinctGates PlaneAt ScansAs InRange Holds TaxiwayTakes
  simp only [List.forall_mem_cons, List.not_mem_nil, false_implies, implies_true, and_true]
  decide
/-- The answer of an application is a free value (log 5): there is none, or some one, at a Cleaned gate that every other
hypothesis holds of. -/
theorem witness_GateDockRequestOnSlave_application :
    (let s := withArgs (withPwm { fresh .slave with
      params := { (fresh .slave).params with answer := .application 0 } } [0x201, 0x100, 0x007, 0x307]) (rng 0 4)
    let g := Gate.fresh (Config.ex1Gate 1 [.u8] [.u8])
    DistinctGates s ∧ g ∈ s.gates ∧ g.conf.gateID ≠ 8 ∧ s.params.role = .slave ∧
      g.conf.gateID ∈ s.params.supported ∧ PlaneAt s s.arg0 g.conf.gateID [0x100, 0x007] ∧
      ([0x100, 0x007] : List Chunk).length + 2 ≤ g.conf.maxSizeOfPlane ∧ g.status = .cleaned) ∧
    ParamsOK [[7]] [.u8] ∧
    AnswersWith { (fresh .slave).params with answer := .application 0 } 1 [[7]] (Config.applicationAnswer 0 1 [[7]]) := by
  refine ⟨?_, .cons rfl .nil, by simp, fun k _ h => by cases h; rfl⟩
  unfold DistinctGates PlaneAt ScansAs InRange Holds
  simp only [List.forall_mem_cons, List.not_mem_nil, false_implies, implies_true, and_true]
  decide

/-- One plane for each answer: no gate 20; a wrong Check; a Start inside; no Div first; 9 chunks; a Bool of 2. The same
planes scan, and their IDs are not 8. -/
theorem witness_GateDockRefused :
    ([[0x214, 0x300], [0x200, 0x100, 0x001, 0x302], [0x200, 0x100, 0x200, 0x300], [0x200, 0x001, 0x301],
      [0x207, 0x100, 1, 1, 1, 1, 1, 1, 0x306], [0x200, 0x100, 0x002, 0x302]] : List (List Chunk)).map
        (fun cells => sees (fun t => (t.result, t.errPlane.code, t.tax))
          (exec .gateDock (withArgs (withPwm (fresh .slave) cells) (rng 0 cells.length)))) =
      [some (.incompatibility, 4, [8]), some (.failed, 2, [8]), some (.crashed, 1, [8]), some (.crashed, 1, [8]),
        some (.failed, 2, [8]), some (.failed, 2, [8])] ∧
    (let s := withArgs (withPwm (fresh .slave) [0x200, 0x100, 0x002, 0x302]) (rng 0 4)
    let g := Gate.fresh (Config.ex1Gate 0 [.bool] [.bool])
    ScansAs s s.arg0 0x200 [0x100, 0x002] 0x302 ∧ BitVec.ofNat 8 (0x200 : Chunk).toNat ≠ 8#8 ∧ DistinctGates s ∧
      g ∈ s.gates ∧ g.conf.gateID = BitVec.ofNat 8 (0x200 : Chunk).toNat ∧ sum8 [0x100, 0x002] = 0x302 % 256 ∧
      g.conf.gateID ∈ s.params.supported) ∧ ¬ ParamsOK [[2]] [.bool] ∧
    ([(0, [2])] : List (Byte × List Byte)).flatMap (fun p => segmentOf p.1 p.2) = [0x100, 0x002] := by
  rw [← typesOK_iff]
  unfold DistinctGates ScansAs InRange Holds
  simp only [List.forall_mem_cons, List.not_mem_nil, false_implies, implies_true, and_true]
  decide

/-- ERR4; then each silent drop: another Check, a first chunk that is no Div, a Start inside, 9 chunks, and two
parameters; and an ID 8 that is not supported. -/
theorem witness_GateDockErrorPlane :
    (let s := withArgs (withPwm (fresh .master) [0x208, 0x100, 0x004, 0x304]) (rng 0 4)
    let g := Gate.fresh (Config.ex1Gate 8 [] [.u8])
    DistinctGates s ∧ g ∈ s.gates ∧ g.conf.gateID = 8 ∧ ScansAs s s.arg0 0x208 [0x100, 0x004] 0x304 ∧
      sum8 [0x100, 0x004] = (0x304 : Chunk).toNat % 256 ∧ 8 ∈ s.params.supported ∧
      ([0x100, 0x004] : List Chunk).length + 2 ≤ g.conf.maxSizeOfPlane) ∧
    ([(0, [4])] : List (Byte × List Byte)).flatMap (fun p => segmentOf p.1 p.2) = [0x100, 0x004] ∧
    ParamsOK [[4]] [.u8] ∧ ¬ ParamsOK [[4], []] [.u8] ∧
    ([[0x208, 0x100, 0x004, 0x304], [0x208, 0x100, 0x004, 0x305], [0x208, 0x004, 0x304],
      [0x208, 0x100, 0x208, 0x308], [0x208, 0x100, 1, 1, 1, 1, 1, 1, 0x306], [0x208, 0x100, 0x004, 0x100, 0x304]] :
        List (List Chunk)).map (fun cells => sees (fun t => (t.result, t.events, t.tax)) (exec .gateDock
          (withArgs (withPwm (fresh .master) cells) (rng 0 cells.length)))) =
      [some (.passed, 0x10000, []), some (.failed, 0, []), some (.crashed, 0, []), some (.crashed, 0, []),
        some (.failed, 0, []), some (.failed, 0, [])] ∧
    sees (fun t => (t.result, t.events, t.tax)) (exec .gateDock (withArgs (withPwm { fresh .master with
      params := { (fresh .master).params with supported := [0] } } [0x208, 0x100, 0x004, 0x304]) (rng 0 4))) =
      some (.incompatibility, 0, []) := by
  refine ⟨?_, by decide, .cons rfl .nil, by rw [← typesOK_iff]; decide, by decide, by decide⟩
  unfold DistinctGates ScansAs InRange Holds
  simp only [List.forall_mem_cons, List.not_mem_nil, false_implies, implies_true, and_true]
  decide

/-! ### Witnesses: the invariant -/

/-- A Master with a Request queued at gate 0, an answer awaited at gate 1, a plane being received and a tick coming. -/
def busy : State :=
  { ((fresh .master).updateGate 0 fun g => { g with status := .readyForDeparture, depPlane := ping1 }).updateGate 1
      fun g => { g with status := .awaitingArrival } with
    tax := [0]
    departureStatus := .departureAvailable
    arrState := .receiving
    arrBuf := [0x205, 0x100]
    receivingID := 5
    bwm := [(0, 1), (1, 1)]
    pwm := [(0, 0x200), (1, 0x300)]
    inputs := [.tick] }

/-- A gate's checks as one Boolean. -/
def gateChecks (r : Role) (g : Gate) : Bool :=
  g.depPlane.length ≤ g.conf.maxSizeOfPlane && g.depPlane.all (fun c => c.toNat ≤ 1023) &&
    (g.status != .readyForDeparture || 2 ≤ g.depPlane.length) && g.arrParams.all (fun B => B.length ≤ 255) &&
    (g.conf.gateID != 8 || g.status == .cleaned || g.status == .availableArrival) && r == .master

theorem gateChecks_ok {r : Role} {g : Gate} (h : gateChecks r g = true) : Gate.OK r g := by
  simp only [gateChecks, Bool.and_eq_true, Bool.or_eq_true, decide_eq_true_eq, List.all_eq_true, bne_iff_ne,
    beq_iff_eq] at h
  obtain ⟨⟨⟨⟨⟨h1, h2⟩, h3⟩, h4⟩, h5⟩, h6⟩ := h
  exact ⟨h1, h2, fun h => h3.resolve_left (not_not.mpr h), h4,
    fun h => (h5.imp_left fun k => k.resolve_left (not_not.mpr h)), fun h => by simp [h6] at h⟩

theorem busy_inv : busy.Inv where
  config := by decide
  memory := {
    bwm_wf := by decide
    pwm_wf := by decide
    bwm_lt := fun e he => of_decide_eq_true (List.all_eq_true.mp
      (show busy.bwm.all (fun e => decide (e.1 < busy.params.bwmSize)) = true by decide) e he)
    pwm_lt := fun e he => of_decide_eq_true (List.all_eq_true.mp
      (show busy.pwm.all (fun e => decide (e.1 < busy.params.pwmSize)) = true by decide) e he) }
  arrival := {
    available := by decide
    idle := fun h => absurd h (by decide)
    receiving := fun _ => ⟨by decide, [0x100], rfl, by simp⟩
    complete := fun h => absurd h (by decide) }
  taxiway := ⟨by decide, by decide⟩
  runway := {
    fifo := by decide
    buffer := by decide
    index := by decide
    sending := by decide
    chunks := fun c hc => absurd hc (by simp [busy, fresh, State.powerOn, State.updateGate])
    errChunks := fun _ c hc => of_decide_eq_true (List.all_eq_true.mp
      (show busy.errPlane.chunks.all (fun c => decide (c.toNat ≤ 1023)) = true by decide) c hc) }
  gates := fun g hg =>
    gateChecks_ok (List.all_eq_true.mp (show busy.gates.all (gateChecks .master) = true by decide) g hg)

theorem witness_StepKeepsInvariant : ∃ s t : State, s.Inv ∧ step s = .next t :=
  ⟨busy, _, busy_inv, rfl⟩
/-- A gate in ReadyForDeparture and one in AwaitingArrival. -/
theorem witness_NoCommandAbandonsARequest : ∃ (s t : State) (i : Instr) (g h : Gate),
    s.Inv ∧ exec i s = .next t ∧ s.gates[0]? = some g ∧ g.status = .readyForDeparture ∧ s.gates[1]? = some h ∧
      h.status = .awaitingArrival :=
  ⟨busy, _, .termReset, _, _, busy_inv, rfl, rfl, rfl, rfl, rfl⟩
theorem witness_WhatNoCommandWrites : ∃ (i : Instr) (s t : State), exec i s = .next t ∧ t.result ≠ .passed :=
  ⟨.termPop, fresh .master, _, rfl, by decide⟩
theorem witness_PowerOnSatisfiesInvariant : (Config.ex1 .slave).wf = true := by decide

/-! ### Witnesses: the tick, the link and the host bus -/

theorem witness_TickKeepsHostState : ∃ (s t : State) (rest : List Input), s.inputs = .tick :: rest ∧ step s = .next t :=
  ⟨busy, _, [], rfl, rfl⟩
/-- A gate in each clause of R220, in a tick while the block is stopped and in a live one: not waiting, waiting, at its
timeout, beyond it, and at the end of its timer. -/
theorem witness_TickUpdatesEveryGate : ∀ live ∈ [false, true],
    ([(.cleaned, 5), (.justLeft, 5), (.awaitingArrival, 999), (.awaitingArrival, 1000),
      (.readyForDeparture, 0xFFFFFFFF)] : List (GateStatus × Word)).map (fun v =>
        let t := tick { withGate .master 0 (fun g => { g with status := v.1, timer := v.2 }) with enable := live }
        (t.events, (gateView t 0).map fun g => (g.status, g.timer))) =
      [(0, some (.cleaned, 5)), (0, some (.justLeft, 6)), (0, some (.awaitingArrival, 1000)),
        (0x01000, some (.cleaned, 1001)), (0, some (.readyForDeparture, 0xFFFFFFFF))] := by decide
/-- The last clause at its edge: gate 0 owns the plane being sent, gate 1 is at the head of the taxiway, and gate 2 is
neither; each of them waits. -/
theorem witness_TickUpdatesEveryGate_owner :
    (let s := ((withGate .master 0 fun g => { g with status := .readyForDeparture }).updateGate 1 fun g =>
      { g with status := .readyForDeparture, depPlane := ping1 }).updateGate 2 fun g => { g with status := .justLeft }
    let sent := tick { s with sending := true, txBuf := ping1, txOwner := .gate 0, tax := [1] }
    let started := tick { s with txOwner := .gate 0, tax := [1] }
    [sent, started].map (fun t => [0, 1, 2].map fun id => (gateView t id).map fun g => (g.status, g.timer))) =
      [[some (.justLeft, 1), some (.readyForDeparture, 1), some (.justLeft, 1)],
        [some (.readyForDeparture, 1), some (.justLeft, 1), some (.justLeft, 1)]] := by decide
/-- An idle live tick. -/
theorem witness_TickBandwidth :
    (let s := { fresh .slave with txQueue := [1], txBuf := ping1 }
    s.enable = true ∧ s.linkUp = true ∧ s.sending = false ∧ s.tax = [] ∧ s.rxFifo = [] ∧
      (tick s).txQueue = [1] ∧ (tick s).tickCount = 1) := by decide
/-- A gate ready to depart, an error plane, and an ID without a plane; then the gate's plane one chunk longer than the gate
or the runway takes, and an error plane longer than gate 8 or the runway takes. -/
theorem witness_RunwayStartsOrRejects :
    (let s := { withGate .master 0 (fun g => { g with status := .readyForDeparture, depPlane := ping1 }) with
      tax := [0, 3] }
    let g : Gate := { Gate.fresh (Config.ex1Gate 0 [.bool] [.bool]) with
      status := .readyForDeparture, depPlane := ping1 }
    s.enable = true ∧ s.linkUp = true ∧ s.rxFifo = [] ∧ s.sending = false ∧ DistinctGates s ∧ g ∈ s.gates ∧
      g.depPlane.length ≤ g.conf.maxSizeOfPlane ∧ g.depPlane.length ≤ s.params.runwayBufferSize ∧
      (tick s).txChunk = 1 ∧ (tick s).tax = [3]) ∧
    (let s := { fresh .master with tax := [8], errValid := true, errPlane := ⟨0x208, 0x100, 4, 0x304⟩ }
    (tick s).txQueue = [2, 8] ∧ (tick s).errValid = false) ∧
    ([3, 8, 20] : List Byte).map (fun id => (tick { fresh .master with tax := [id] }).events) =
      [0x00100, 0x00100, 0x00100] ∧
    ([(3, 8), (4, 3), (4, 4)] : List (Nat × Nat)).map (fun v =>
      let t := tick { withGate .master 0 (fun g => { g with
        status := .readyForDeparture, depPlane := ping1, conf := { g.conf with maxSizeOfPlane := v.1 } }) with
        tax := [0, 3], params := { (fresh .master).params with runwayBufferSize := v.2 } }
      (t.sending, t.hwStatus, (gateView t 0).map fun g => (g.status, g.lastResult))) =
      [(false, .error, some (.cleaned, .failed)), (false, .error, some (.cleaned, .failed)),
        (true, .traffic, some (.justLeft, .passed))] ∧
    ([(3, 8), (4, 3), (4, 4)] : List (Nat × Nat)).map (fun v =>
      let t := tick { withGate .master 8 (fun g => { g with conf := { g.conf with maxSizeOfPlane := v.1 } }) with
        tax := [8], errValid := true, params := { (fresh .master).params with runwayBufferSize := v.2 } }
      (t.sending, t.hwStatus, t.errValid)) =
      [(false, .error, true), (false, .error, true), (true, .traffic, false)] := by
  unfold DistinctGates; decide
/-- The first and the last chunk of a plane. -/
theorem witness_PlaneLeavesInOrder : ([0, 3] : List Nat).map (fun k =>
    let s := { fresh .master with sending := true, txBuf := ping1, txChunk := k }
    (decide (s.txChunk < s.txBuf.length), (tick s).sending, (tick s).txQueue)) =
      [(true, true, [2, 0]), (true, false, [3, 1])] := by decide
theorem witness_LastChunkMovesTheGate :
    (let s := { withGate .master 0 (fun g => { g with status := .justLeft }) with
      sending := true, txBuf := ping1, txChunk := 3, txOwner := .gate 0 }
    let g : Gate := { Gate.fresh (Config.ex1Gate 0 [.bool] [.bool]) with status := .justLeft }
    DistinctGates s ∧ g ∈ s.gates ∧ s.enable = true ∧ s.linkUp = true ∧ s.rxFifo = [] ∧ s.sending = true ∧
      s.txChunk + 1 = s.txBuf.length ∧ s.txOwner = .gate g.conf.gateID ∧ g.status = .justLeft) ∧
    ([.master, .slave] : List Role).map (fun r =>
    let s := { withGate r 0 (fun g => { g with status := .justLeft }) with
      sending := true, txBuf := ping1, txChunk := 3, txOwner := .gate 0 }
    (decide (s.txChunk + 1 = s.txBuf.length), (gateView (tick s) 0).map (·.status))) =
      [(true, some .awaitingArrival), (true, some .cleaned)] := by
  unfold DistinctGates; decide
/-- Each clause: the latch, a first byte of 4, a Start pair, and the FIFO with one place and with none. With two bytes a
tick, the third waits; with one more it is latched; a pair of 3 and 1 completes a Ping, as its chunk does. -/
theorem witness_ReceivedBytes :
    ([([2], false, 0), ([0], true, 4), ([2, 5], false, 0)] : List (List Byte × Bool × Byte)).map (fun v =>
      let t := tick { fresh .master with rxFifo := v.1, rxLatchValid := v.2.1, rxLatch := v.2.2 }
      (t.rxLatchValid, t.events, t.arrBuf)) =
        [(true, 0, []), (false, 0x00040, []), (false, 0, [0x205])] ∧
    ([15, 16] : List Nat).map (fun n => sees (fun t => t.rxFifo.length) (step { fresh .master with
      rxFifo := List.replicate n 0, inputs := [.rxByte 7] })) = [some 16, some 16] ∧
    ([2, 3] : List Nat).map (fun k =>
      let t := tick { fresh .master with
        params := { (fresh .master).params with rxBytesPerTick := some k }, rxFifo := [2, 0, 1] }
      (t.rxFifo, t.rxLatchValid, t.arrBuf)) = [([1], false, [0x200]), ([], true, [0x200])] ∧
    (let s := { fresh .slave with arrState := .receiving, arrBuf := [0x200, 0x100, 0x001], runSum := 1 }
    (tick { s with rxFifo := [1], rxLatch := 3, rxLatchValid := true }).gates =
      (match exec .termArriveChunk { s with rxFifo := [], arg0 := 0x301 } with
        | .next t => (tick t).gates
        | .fault _ => []
        | .refused _ => [])) := by decide
/-- Writes to CTRL with bit 3 at 0 and at 1. -/
theorem witness_ControlWriteAndReset : ([0x7, 0xF] : List Word).map (fun w => sees (fun t => (t.ctrlWord, t.linkUp))
    (step { fresh .master with linkUp := false, inputs := [.hostWrite 0x00004 32 w] })) =
      [some (7, false), some (5, false)] := by decide
/-- Writes of all ones to each word named, to the last read-only word and to the last reserved one; and the lowest and
the highest event, with its enable and without. -/
theorem witness_RegisterWrites :
    ([0x00010, 0x0001C, 0x0003C, 0x00040, 0x0004C, 0x00050, 0x000FC] : List Addr).map (fun a =>
      sees (fun t => (t.arg0, t.arg3, t.events, t.irqEnable)) (step { fresh .master with
        events := 0x40001, inputs := [.hostWrite a 32 0xFFFFFFFF] })) =
      [some (0xFFFFFFFF, 0, 0x40001, 0), some (0, 0xFFFFFFFF, 0x40001, 0), some (0, 0, 0, 0),
        some (0, 0, 0x40001, 0x7FFFF), some (0, 0, 0x40001, 0), some (0, 0, 0x40001, 0), some (0, 0, 0x40001, 0)] ∧
    ([(0x00001, 0x00001), (0x40000, 0x40000), (0x40000, 0x3FFFF)] : List (BitVec 19 × BitVec 19)).map
      (fun v => ({ fresh .master with events := v.1, irqEnable := v.2 } : State).irq) = [true, true, false] := by
  decide
/-- Every field of STATUS at its largest value, with 17 IDs on the taxiway, and the words after reset of
95_test_vectors.md 0.2. -/
theorem witness_RegisterReads :
    sees (·.hostData) (step { fresh .master with
      arrState := .complete, packetAvailable := true, arrivalStatus := .arrivalReady, departureStatus := .arrivalReady,
      hwStatus := .error, sending := true, tax := List.replicate 17 0, rxLatchValid := true, events := 1, irqEnable := 1,
      errValid := true, inputs := [.hostRead 0x00008 32] }) = some 0x0711D446 ∧
    ([0x00000, 0x00004, 0x0000C, 0x0004C, 0x00050, 0x000FC] : List Addr).map (fun a =>
      sees (·.hostData) (step { fresh .slave with inputs := [.hostRead a 32] })) =
      [some 0x107, some 5, some 0, some 0x00040008, some 0, some 0] := by decide
/-- The last word of BWM, whole and with two bytes beyond the memory, and the last cell of PWM. -/
theorem witness_MemoryWindows :
    sees (fun t => t.bwm.map (·.1)) (step { fresh .master with inputs := [.hostWrite 0x1003C 32 0x04030201] }) =
      some [60, 61, 62, 63] ∧
    sees (fun t => t.bwm) (step { fresh .master with
      params := { (fresh .master).params with bwmSize := 62 }, inputs := [.hostWrite 0x1003C 32 0x04030201] }) =
      some [(60, 1), (61, 2)] ∧
    sees (·.hostData) (step { fresh .master with
      params := { (fresh .master).params with bwmSize := 62 }, bwm := [(60, 1), (61, 2)],
      inputs := [.hostRead 0x1003C 32] }) = some 0x0201 ∧
    sees (·.pwm) (step { fresh .master with inputs := [.hostWrite 0x200FC 32 0xFFFF0123] }) = some [(63, 0x0123)] ∧
    faultOf (step { fresh .master with inputs := [.hostRead 0x200FC 32] }) = some .uninitRead := by decide
/-- The addresses at the ends of the windows, on both sides. -/
theorem witness_HostAccesses : ([0x000FC, 0x00100, 0x0FFFC, 0x1003C, 0x10040, 0x1FFFC, 0x200FC, 0x20100, 0xFFFFC] :
    List Addr).map (fun a => faultOf (step { fresh .master with inputs := [.hostWrite a 32 0] })) =
      [none, some .busRefused, some .busRefused, none, some .busRefused, some .busRefused, none, some .busRefused,
        some .busRefused] := by decide

end Sys2Proof.Tests
end

section
/-! PROOF of O59: the invariant of the block is kept by every step. `KeepsInv s t` says that `t` meets the invariant and
has the configuration of `s` wherever `s` meets the invariant; it composes, so each procedure of the machine is followed
update by update. -/

namespace Sys2Proof.Machine

/-! ### Keeping the invariant, and the updates that do -/

/-- From a state that meets the invariant, the second state meets it too and has the same configuration. -/
def KeepsInv (s t : State) : Prop := s.Inv → t.Inv ∧ t.config = s.config

/-- A state that differs from another in fields alone that the invariant does not speak of. -/
def QuietOnly (s t : State) : Prop :=
  t = { s with
    arg0 := t.arg0
    arg1 := t.arg1
    arg2 := t.arg2
    arg3 := t.arg3
    result := t.result
    ret0 := t.ret0
    ret1 := t.ret1
    ret2 := t.ret2
    ret3 := t.ret3
    enable := t.enable
    mode := t.mode
    autoDock := t.autoDock
    events := t.events
    irqEnable := t.irqEnable
    tickCount := t.tickCount
    arrivalStatus := t.arrivalStatus
    departureStatus := t.departureStatus
    txID := t.txID
    txOwner := t.txOwner
    hwStatus := t.hwStatus
    rejectedThisTick := t.rejectedThisTick
    rxLatch := t.rxLatch
    rxLatchValid := t.rxLatchValid
    txQueue := t.txQueue
    linkUp := t.linkUp
    hostData := t.hostData
    inputs := t.inputs }

/-- A state that differs from another in the runway and in fields the invariant does not speak of alone. -/
def RunwayOnly (s t : State) : Prop :=
  QuietOnly { s with
    rxFifo := t.rxFifo
    txBuf := t.txBuf
    txChunk := t.txChunk
    sending := t.sending
    errPlane := t.errPlane
    errValid := t.errValid } t

section
variable {s t u : State}

theorem KeepsInv.refl (s : State) : KeepsInv s s := fun h => ⟨h, rfl⟩

theorem KeepsInv.trans (h : KeepsInv s t) (k : KeepsInv t u) : KeepsInv s u := fun hs =>
  have ⟨ht, hc⟩ := h hs
  have ⟨hu, hd⟩ := k ht
  ⟨hu, hd.trans hc⟩

theorem KeepsInv.of_runwayOnly (hf : RunwayOnly s t) (hok : s.Inv → t.RunwayOK) : KeepsInv s t := by
  intro h
  have hr := hok h
  unfold RunwayOnly QuietOnly at hf
  rw [hf] at hr ⊢
  exact ⟨⟨h.config, { h.memory with }, { h.arrival with }, { h.taxiway with }, hr, h.gates⟩, rfl⟩

theorem KeepsInv.of_quietOnly (hf : QuietOnly s t) : KeepsInv s t := by
  intro h
  unfold QuietOnly at hf
  rw [hf]
  exact ⟨⟨h.config, { h.memory with }, { h.arrival with }, { h.taxiway with }, { h.runway with }, h.gates⟩, rfl⟩

theorem KeepsInv.report (e : Event) (s : State) : KeepsInv s (s.report e) := .of_quietOnly rfl

theorem KeepsInv.andReport {e : Event} (h : KeepsInv s t) : KeepsInv s (t.report e) := h.trans (.report e t)

theorem KeepsInv.of_arrivalOnly (hf : ArrivalOnly s t) (hok : s.Inv → t.ArrivalOK) : KeepsInv s t := by
  intro h
  have ha := hok h
  unfold ArrivalOnly at hf
  rw [hf] at ha ⊢
  exact ⟨⟨h.config, { h.memory with }, ha, { h.taxiway with }, { h.runway with }, h.gates⟩, rfl⟩

theorem KeepsInv.setTaxiway {ids : List Byte} {d : TerminalStatus}
    (hok : s.Inv → ids.Nodup ∧ ids.length ≤ s.params.sizeOfDepartureTaxiway) :
    KeepsInv s { s with tax := ids, departureStatus := d } := fun h =>
  ⟨⟨h.config, { h.memory with }, { h.arrival with }, ⟨(hok h).1, (hok h).2⟩, { h.runway with }, h.gates⟩, rfl⟩

/-- Consecutive writes inside a memory keep its canonical form and list no cell beyond its end. -/
theorem Memory.writeRange_ok {w : Nat} {m : Memory w} {size a : Nat} {vs : List (BitVec w)} (hwf : m.wf)
    (hlt : ∀ e ∈ m, e.1 < size) (hfit : a + vs.length ≤ size) :
    (Memory.writeRange m a vs).wf ∧ ∀ e ∈ Memory.writeRange m a vs, e.1 < size := by
  refine ⟨Memory.writeRange_wf m a vs hwf, fun e he => ?_⟩
  rcases Memory.mem_writeRange_addr m a vs e.1 (List.mem_map_of_mem he) with ⟨_, hb⟩ | hold
  · omega
  · obtain ⟨e', he', heq⟩ := List.mem_map.mp hold
    exact heq ▸ hlt e' he'

theorem KeepsInv.writeBwm {a : Nat} {bytes : List Byte} (hfit : a + bytes.length ≤ s.params.bwmSize) :
    KeepsInv s { s with bwm := s.bwm.writeRange a bytes } := fun h =>
  have ⟨hwf, hlt⟩ := Memory.writeRange_ok h.memory.bwm_wf h.memory.bwm_lt hfit
  ⟨⟨h.config, ⟨hwf, h.memory.pwm_wf, hlt, h.memory.pwm_lt⟩, { h.arrival with }, { h.taxiway with }, { h.runway with },
    h.gates⟩, rfl⟩

theorem KeepsInv.writePwm {a : Nat} {cells : List Chunk} (hfit : a + cells.length ≤ s.params.pwmSize) :
    KeepsInv s { s with pwm := s.pwm.writeRange a cells } := fun h =>
  have ⟨hwf, hlt⟩ := Memory.writeRange_ok h.memory.pwm_wf h.memory.pwm_lt hfit
  ⟨⟨h.config, ⟨h.memory.bwm_wf, hwf, h.memory.bwm_lt, hlt⟩, { h.arrival with }, { h.taxiway with }, { h.runway with },
    h.gates⟩, rfl⟩

theorem KeepsInv.mapGates {f : Gate → Gate} (hconf : ∀ g, (f g).conf = g.conf)
    (hok : s.Inv → ∀ g ∈ s.gates, Gate.OK s.params.role (f g)) : KeepsInv s { s with gates := s.gates.map f } := by
  intro h
  have hcfg : ({ s with gates := s.gates.map f } : State).config = s.config := by
    simp only [State.config, List.map_map, Function.comp_def, hconf]
  refine ⟨⟨hcfg ▸ h.config, { h.memory with }, { h.arrival with }, { h.taxiway with }, { h.runway with }, ?_⟩, hcfg⟩
  intro g hg
  obtain ⟨g0, hg0, rfl⟩ := List.mem_map.mp hg
  exact hok h g0 hg0

/-- Changing the gate of an ID keeps the invariant where the change keeps a good gate of that ID good. -/
theorem KeepsInv.updateGate {id : Byte} {f : Gate → Gate} (hconf : ∀ g, (f g).conf = g.conf)
    (hok : s.Inv → ∀ g ∈ s.gates, g.conf.gateID = id → Gate.OK s.params.role g → Gate.OK s.params.role (f g)) :
    KeepsInv s (s.updateGate id f) := by
  refine .mapGates (fun g => ?_) (fun h g hg => ?_)
  · split
    · exact hconf g
    · rfl
  · split
    · next hid => exact hok h g hg hid (h.gates g hg)
    · exact h.gates g hg

/-! ### What the configuration gives -/

theorem State.Inv.four_le_arrivalSize (h : s.Inv) : 4 ≤ s.params.sizeOfArrivalPlane := by
  have hwf := h.config
  simp only [Config.wf, Params.sizesOK, Bool.and_eq_true, decide_eq_true_eq, and_assoc] at hwf
  obtain ⟨hsize, -⟩ := hwf
  exact hsize

theorem State.Inv.distinctGates (h : s.Inv) : DistinctGates s := by
  have hwf := h.config
  simp only [Config.wf, Config.gateIDsOK, Bool.and_eq_true, decide_eq_true_eq, and_assoc, State.config,
    List.map_map] at hwf
  obtain ⟨-, -, -, hnodup, -⟩ := hwf
  exact hnodup

/-- The gates of one ID have one entry of the gate table. -/
theorem State.Inv.conf_eq (h : s.Inv) {c : GateConf} (hc : c ∈ s.gates.map (·.conf)) {g : Gate} (hg : g ∈ s.gates)
    (hid : g.conf.gateID = c.gateID) : g.conf = c := by
  obtain ⟨g', hg', rfl⟩ := List.mem_map.mp hc
  rw [List.inj_on_of_nodup_map h.distinctGates hg hg' hid]

theorem mem_of_gate? {id : Byte} {g : Gate} (h : s.gate? id = some g) : g ∈ s.gates ∧ g.conf.gateID = id :=
  ⟨List.mem_of_find?_eq_some h, by simpa using List.find?_some h⟩

end

@[simp] theorem State.powerOn_config (c : Config) (up : Bool) : (State.powerOn c up).config = c := by
  simp [State.config, State.powerOn, Function.comp_def, Gate.fresh]

/-- The block is good after power-on of a configuration (10_state.md R54). -/
theorem State.powerOn_inv {c : Config} (up : Bool) (hc : c.wf = true) : (State.powerOn c up).Inv where
  config := (State.powerOn_config c up).symm ▸ hc
  memory := ⟨Memory.empty_wf, Memory.empty_wf, nofun, nofun⟩
  arrival := ⟨by simp [State.powerOn], fun _ => ⟨rfl, rfl⟩, nofun, nofun⟩
  taxiway := ⟨List.nodup_nil, Nat.zero_le _⟩
  runway := ⟨Nat.zero_le _, Nat.zero_le _, Nat.zero_le _, nofun, nofun, nofun⟩
  gates := by
    intro g hg
    obtain ⟨gc, _, rfl⟩ := List.mem_map.mp hg
    exact ⟨Nat.zero_le _, nofun, nofun, nofun, fun _ => .inl rfl, fun _ _ => ⟨nofun, nofun⟩⟩

theorem KeepsInv.blockReset (s : State) : KeepsInv s s.blockReset := fun h =>
  have ⟨hinv, hkept⟩ := KeepsInv.of_quietOnly (t := s.blockReset) rfl (State.powerOn_inv s.linkUp h.config)
  ⟨hinv, hkept.trans (State.powerOn_config _ _)⟩

/-! ### Planes and parameters -/

theorem encodeChunk_le (v : Byte) (t : ChunkType) : (encodeChunk v t).toNat ≤ 1023 := by
  have := t.index_lt
  have := v.isLt
  rw [encodeChunk_toNat]
  omega

/-- A plane a gate may hold for departure (10_state.md R48). -/
structure Sendable (c : GateConf) (P : List Chunk) : Prop where
  size : P.length ≤ c.maxSizeOfPlane
  two_le : 2 ≤ P.length
  chunks : ∀ x ∈ P, x.toNat ≤ 1023

theorem makePlane_length (id : Byte) (cells : List Chunk) : (makePlane id cells).length = cells.length + 2 := by
  simp [makePlane]

theorem build_sendable {d : Byte} {c : GateConf} {L : List (List Byte)} {P : List Chunk} (h : build d c L = some P) :
    Sendable c P := by
  unfold build at h
  dsimp only at h
  split at h
  · cases h
  · next hfit =>
    cases h
    refine ⟨by rw [makePlane_length]; omega, by rw [makePlane_length]; omega, ?_⟩
    simp only [makePlane, paramSegment, List.mem_cons, List.mem_append, List.mem_flatMap, List.mem_map, List.not_mem_nil,
      or_false]
    rintro x (rfl | ⟨B, _, rfl | ⟨b, _, rfl⟩⟩ | rfl) <;> exact encodeChunk_le _ _

theorem paramOK_length_le {B : List Byte} {t : TypeTag} (h : ParamOK B t) : B.length ≤ 255 := by
  cases t with
  | text => exact h
  | bool => rcases h with rfl | rfl <;> decide
  | _ => exact (show B.length = _ from h).trans_le (by decide)

theorem length_le_of_paramsOK {L : List (List Byte)} {T : List TypeTag} (h : ParamsOK L T) :
    ∀ B ∈ L, B.length ≤ 255 := by
  unfold ParamsOK at h
  induction h with
  | nil => nofun
  | cons hB _ ih => exact List.forall_mem_cons.mpr ⟨paramOK_length_le hB, ih⟩

theorem length_le_of_typesOK {L : List (List Byte)} {T : List TypeTag} (h : typesOK L T = true) :
    ∀ B ∈ L, B.length ≤ 255 := length_le_of_paramsOK ((typesOK_iff L T).mp h)

/-! ### Gates -/

section
variable {r : Role} {g : Gate}

theorem Gate.OK.cleaned (h : Gate.OK r g) (timer : Word) (code : ResultCode) :
    Gate.OK r { g with timer := timer, lastResult := code, status := .cleaned } :=
  { h with ready := nofun, errorGate := fun _ => .inl rfl, slave := fun _ _ => ⟨nofun, nofun⟩ }

theorem Gate.OK.withParams (h : Gate.OK r g) {L : List (List Byte)} (hL : ∀ B ∈ L, B.length ≤ 255) :
    Gate.OK r { g with arrParams := L } := { h with params := hL }

theorem Gate.OK.docked (h : Gate.OK r g) {L : List (List Byte)} (hL : ∀ B ∈ L, B.length ≤ 255)
    (hrole : r = .master ∨ g.conf.gateID = 8) : Gate.OK r (g.docked L) :=
  { h with
    params := hL
    ready := nofun
    errorGate := fun _ => .inr rfl
    slave := fun hs h8 => hrole.elim (fun hm => nomatch hm.symm.trans hs) (fun e => absurd e h8) }

theorem Gate.OK.requested (h : Gate.OK r g) {P : List Chunk} (hP : Sendable g.conf P) (h8 : g.conf.gateID ≠ 8) :
    Gate.OK r (g.requested P) :=
  { h with
    size := hP.size
    chunks := hP.chunks
    ready := fun _ => hP.two_le
    errorGate := fun e => absurd e h8
    slave := fun _ _ => ⟨nofun, nofun⟩ }

theorem Gate.OK.leaving (h : Gate.OK r g) : Gate.OK r g.leaving := by
  unfold Gate.leaving
  split
  · next hr =>
    refine { h with ready := nofun, errorGate := fun e => ?_, slave := fun _ _ => ⟨nofun, nofun⟩ }
    rcases h.errorGate e with hs | hs <;> exact nomatch hr.symm.trans hs
  · exact h

theorem Gate.OK.left (h : Gate.OK r g) : Gate.OK r (g.left r) := by
  unfold Gate.left
  split
  · next hj =>
    cases r with
    | master =>
      refine { h with ready := nofun, errorGate := fun e => ?_, slave := nofun }
      rcases h.errorGate e with hs | hs <;> exact nomatch hj.symm.trans hs
    | slave => exact h.cleaned _ _
  · exact h

theorem Gate.OK.update (h : Gate.OK r g) (n : Nat) : Gate.OK r (g.update n) := by
  unfold Gate.update
  split
  · exact h.cleaned _ _
  · exact { h with }

end

theorem updateGates_keepsInv (s : State) : KeepsInv s (updateGates s) := by
  refine .trans (.mapGates (Gate.update_conf s.params.tickMS) fun h g hg => (h.gates g hg).update _) ?_
  unfold updateGates State.reportIf
  split <;> exact .of_quietOnly rfl

theorem updateOwner_keepsInv {f : Gate → Gate} {s : State} (hconf : ∀ g, (f g).conf = g.conf)
    (hok : ∀ g, Gate.OK s.params.role g → Gate.OK s.params.role (f g)) : KeepsInv s (updateOwner f s) := by
  unfold updateOwner
  split
  · exact .updateGate hconf fun _ g _ _ => hok g
  · exact .refl s
  · exact .refl s

/-- Queueing a plane for departure in a gate other than gate 8. -/
theorem KeepsInv.request {s : State} {c : GateConf} {P : List Chunk} (hc : c ∈ s.gates.map (·.conf))
    (hP : Sendable c P) (h8 : c.gateID ≠ 8) : KeepsInv s (s.updateGate c.gateID (Gate.requested P)) :=
  .updateGate (fun _ => rfl) fun h g hg hid hok =>
    have hcg : g.conf = c := h.conf_eq hc hg hid
    hok.requested (hcg ▸ hP) (hcg ▸ h8)

/-! ### The taxiway -/

theorem put_keepsInv (id : Byte) (s : State) : KeepsInv s (put id s).2 := by
  rcases put_cases id s with ⟨_, h⟩ | ⟨_, _, h⟩ | ⟨hnew, hroom, h⟩ <;> rw [h]
  · exact .refl s
  · exact .of_quietOnly rfl
  · refine .setTaxiway fun hi => ⟨?_, ?_⟩
    · exact hi.taxiway.nodup.append (List.nodup_singleton id) (by simpa using hnew)
    · have := hi.taxiway.capacity
      simp only [List.length_append, List.length_singleton]
      omega

theorem pop_keepsInv {s t : State} {id : Byte} (h : pop s = some (id, t)) : KeepsInv s t := by
  rcases pop_cases s with ⟨_, e⟩ | ⟨id', rest, htax, e⟩
  · exact nomatch h.symm.trans e
  · cases h.symm.trans e
    refine .setTaxiway fun hi => ?_
    have hn := hi.taxiway.nodup
    have hl := hi.taxiway.capacity
    rw [htax] at hn hl
    exact ⟨hn.of_cons, Nat.le_of_succ_le hl⟩

/-! ### Docking -/

theorem sendError_keepsInv (e : ResultCode) (s : State) : KeepsInv s (sendError e s) := by
  unfold sendError
  split
  · exact .report _ s
  · refine .andReport (.trans ?_ (put_keepsInv 8 _))
    refine .of_runwayOnly rfl fun h => { h.runway with errChunks := fun _ => ?_ }
    simp only [errorPlane, ErrPlane.chunks, List.mem_cons, List.not_mem_nil, or_false]
    rintro c (rfl | rfl | rfl | rfl) <;> exact encodeChunk_le _ _

theorem dockError_keepsInv (P : List Chunk) (s : State) : KeepsInv s (dockError P s).2 := by
  unfold dockError
  split
  · exact .refl s
  · split
    · exact .refl s
    · split
      · exact .refl s
      · split
        · exact .refl s
        · next htypes =>
          have hL := length_le_of_typesOK (Bool.eq_true_of_not_eq_false htypes)
          exact .andReport (.updateGate (fun _ => rfl) fun _ g _ hid hok => hok.docked hL (.inr hid))

theorem masterDock_keepsInv {g : Gate} {L : List (List Byte)} {s : State} (hrole : s.params.role = .master)
    (hL : ∀ B ∈ L, B.length ≤ 255) : KeepsInv s (masterDock g L s).2 := by
  unfold masterDock
  split
  · exact .report _ s
  · exact .andReport (.updateGate (fun _ => rfl) fun _ _ _ _ hok => hok.docked hL (.inl hrole))

theorem answerFailed_keepsInv (id : Byte) (s : State) : KeepsInv s (answerFailed id s).2 :=
  .andReport (.updateGate (fun _ => rfl) fun _ _ _ _ hok => { hok with })

theorem queueAnswer_keepsInv {g : Gate} {A : List (List Byte)} {s : State} (hg : g.conf ∈ s.gates.map (·.conf))
    (h8 : g.conf.gateID ≠ 8) : KeepsInv s (queueAnswer g A s).2 := by
  unfold queueAnswer
  split
  · exact answerFailed_keepsInv _ s
  · next P hbuild =>
    split
    · exact answerFailed_keepsInv _ s
    · have hput := put_keepsInv g.conf.gateID s
      have hgates := put_gates g.conf.gateID s
      split
      · next heq =>
        rw [heq] at hput hgates
        exact hput.trans (.andReport (.request (by rwa [hgates]) (build_sendable hbuild) h8))
      · next heq =>
        rw [heq] at hput
        exact hput.trans (answerFailed_keepsInv _ _)

theorem slaveDock_keepsInv {g : Gate} {L : List (List Byte)} {s : State} (hg : g.conf ∈ s.gates.map (·.conf))
    (h8 : g.conf.gateID ≠ 8) (hL : ∀ B ∈ L, B.length ≤ 255) : KeepsInv s (slaveDock g L s).2 := by
  have hstored : KeepsInv s (s.updateGate g.conf.gateID fun g => { g with arrParams := L }) :=
    .updateGate (fun _ => rfl) fun _ _ _ _ hok => hok.withParams hL
  unfold slaveDock
  split
  · exact sendError_keepsInv _ s
  · dsimp only
    split
    · exact hstored
    · refine hstored.trans (queueAnswer_keepsInv ?_ h8)
      rwa [updateGate_confs _ (fun g => { g with arrParams := L }) _ fun _ => rfl]

theorem dockAtGate_keepsInv {g : Gate} {P : List Chunk} {s : State} (hg : g.conf ∈ s.gates.map (·.conf))
    (h8 : g.conf.gateID ≠ 8) : KeepsInv s (dockAtGate g P s).2 := by
  unfold dockAtGate
  split
  · exact sendError_keepsInv _ s
  · split
    · exact sendError_keepsInv _ s
    · split
      · exact sendError_keepsInv _ s
      · next htypes =>
        have hL := length_le_of_typesOK (Bool.eq_true_of_not_eq_false htypes)
        split
        · next hrole => exact masterDock_keepsInv hrole hL
        · exact slaveDock_keepsInv hg h8 hL

theorem dock_keepsInv (P : List Chunk) (s : State) : KeepsInv s (dock P s).2 := by
  unfold dock
  split
  · exact dockError_keepsInv P s
  · next h8 =>
    split
    · exact sendError_keepsInv _ s
    · next g hfound =>
      obtain ⟨hmem, hid⟩ := mem_of_gate? hfound
      exact dockAtGate_keepsInv (List.mem_map_of_mem hmem) (hid ▸ h8)

/-! ### Arrival -/

section
variable {s : State} {c : Chunk}

theorem startChunk_byteOf (hc : c.toNat / 256 = 2) : startChunk (byteOf c) = c := by
  apply BitVec.eq_of_toNat_eq
  simp only [startChunk, BitVec.toNat_ofNat, byteOf_toNat]
  omega

theorem State.ArrivalOK.packetAvailable_eq_false (h : s.ArrivalOK) (hr : s.arrState ≠ .complete) :
    s.packetAvailable = false := Bool.eq_false_of_not_eq_true fun ha => hr (h.available.mp ha)

theorem State.ArrivalOK.of_receiving (hr : s.arrState = .receiving) (hna : s.packetAvailable = false)
    (hlen : s.arrBuf.length + 1 ≤ s.params.sizeOfArrivalPlane)
    (hbuf : ∃ body, s.arrBuf = startChunk s.receivingID :: body ∧ ∀ c ∈ body, c.toNat < 512) : s.ArrivalOK :=
  ⟨by simp [hr, hna], by simp [hr], fun _ => ⟨hlen, hbuf⟩, by simp [hr]⟩

theorem beginPlane_arrivalOK (hc : c.toNat / 256 = 2) (hsize : 4 ≤ s.params.sizeOfArrivalPlane) :
    (beginPlane c s).ArrivalOK :=
  .of_receiving rfl rfl (Nat.le_trans (by simp) hsize) ⟨[], by simp [startChunk_byteOf hc], nofun⟩

theorem dropPlane_arrivalOK (h : s.packetAvailable = false) : (dropPlane s).ArrivalOK :=
  ⟨by simp [h], fun _ => ⟨rfl, rfl⟩, nofun, nofun⟩

theorem storePayload_arrivalOK (h : s.ArrivalOK) (hr : s.arrState = .receiving) (hc : c.toNat / 256 < 2) :
    (storePayload c s).ArrivalOK := by
  have hna := h.packetAvailable_eq_false (by simp [hr])
  obtain ⟨hlen, body, hbuf, hbody⟩ := h.receiving hr
  unfold storePayload
  dsimp only
  split
  · exact dropPlane_arrivalOK hna
  · next hfull =>
    simp only [State.cursor, List.length_append, List.length_singleton] at hfull
    refine .of_receiving hr hna ?_ ⟨body ++ [c], ?_, ?_⟩
    · simp only [List.length_append, List.length_singleton]
      omega
    · simp [hbuf]
    · intro x hx
      rcases List.mem_append.mp hx with hx | hx
      · exact hbody x hx
      · rw [List.mem_singleton.mp hx]
        omega

theorem closePlane_arrivalOK (h : s.ArrivalOK) (hr : s.arrState = .receiving) (hc : c.toNat / 256 = 3) :
    (closePlane c s).ArrivalOK := by
  have hna := h.packetAvailable_eq_false (by simp [hr])
  obtain ⟨hlen, body, hbuf, hbody⟩ := h.receiving hr
  unfold closePlane
  dsimp only
  split
  · refine ⟨by simp, nofun, nofun, fun _ => ⟨by simpa using hlen, body, c, ?_, hbody, hc⟩⟩
    simp [hbuf]
  · exact dropPlane_arrivalOK hna

/-- One chunk leaves the arrival state one of 43_terminal.md R141. -/
theorem arrive_arrivalOK (h : s.ArrivalOK) (hsize : 4 ≤ s.params.sizeOfArrivalPlane) : (arrive c s).ArrivalOK := by
  rcases arrive_cases c s with ⟨_, e⟩ | ⟨_, _, e⟩ | ⟨hc, _, e⟩ | ⟨_, _, _, e⟩ | ⟨hc, _, e⟩ | ⟨hc, hr, _, e⟩ |
    ⟨_, hr, _, e⟩ | ⟨hc, hr, _, e⟩ | ⟨_, hr, _, e⟩ <;> rw [e]
  · exact h
  · exact { h with }
  · exact beginPlane_arrivalOK hc hsize
  · exact { h with }
  · exact beginPlane_arrivalOK hc hsize
  · exact storePayload_arrivalOK h hr hc
  · exact { h with idle := by simp [hr] }
  · exact closePlane_arrivalOK h hr hc
  · exact dropPlane_arrivalOK (h.packetAvailable_eq_false (by simp [hr]))

end

theorem arrive_keepsInv (c : Chunk) (s : State) : KeepsInv s (arrive c s) :=
  .of_arrivalOnly (arrive_frame c s) fun h => arrive_arrivalOK h.arrival h.four_le_arrivalSize

theorem takeArrival_keepsInv (s : State) : KeepsInv s (takeArrival s).2 :=
  .of_arrivalOnly (takeArrival_frame s) fun _ => ⟨by simp, fun _ => ⟨rfl, rfl⟩, nofun, nofun⟩

theorem arriveAndDock_keepsInv (c : Chunk) (s : State) : KeepsInv s (arriveAndDock c s) := by
  rcases arriveAndDock_cases c s with ⟨_, h⟩ | ⟨_, _, h⟩ <;> rw [h]
  · exact arrive_keepsInv c s
  · exact (arrive_keepsInv c s).trans ((takeArrival_keepsInv _).trans (dock_keepsInv _ _))

/-! ### The runway and the tick -/

theorem rxByteToChunk_keepsInv (s : State) (b : Byte) : KeepsInv s (rxByteToChunk s b) := by
  rcases rxByteToChunk_cases s b with ⟨_, h⟩ | ⟨_, _, h⟩ | ⟨_, _, h⟩ <;> rw [h]
  · exact .of_quietOnly rfl
  · exact .of_quietOnly rfl
  · exact KeepsInv.trans (t := { s with rxLatchValid := false }) (.of_quietOnly rfl) (arriveAndDock_keepsInv _ _)

theorem foldl_rxByteToChunk_keepsInv (bs : List Byte) (s : State) : KeepsInv s (bs.foldl rxByteToChunk s) := by
  induction bs generalizing s with
  | nil => exact .refl s
  | cons b bs ih => exact (rxByteToChunk_keepsInv s b).trans (ih _)

theorem rxPhase_keepsInv (s : State) : KeepsInv s (rxPhase s) := by
  refine KeepsInv.trans (t := { s with rxFifo := s.rxFifo.drop (rxAmount s) }) (.of_runwayOnly rfl fun h => ?_)
    (foldl_rxByteToChunk_keepsInv _ _)
  exact { h.runway with fifo := (List.drop_sublist _ _).length_le.trans h.runway.fifo }

theorem reject_keepsInv (o : TxOwner) (s : State) : KeepsInv s (reject o s) := by
  have hreported : KeepsInv s (({ s with rejectedThisTick := true } : State).report .planeRejected) :=
    .of_quietOnly rfl
  cases o with
  | gate id => exact hreported.trans (.updateGate (fun _ => rfl) fun _ _ _ _ hok => hok.cleaned _ _)
  | none => exact hreported
  | errSlot => exact hreported

theorem loadPlane_keepsInv {o : TxOwner} {id : Byte} {P : List Chunk} {max : Nat} {s : State}
    (hP : s.Inv → 0 < P.length ∧ ∀ c ∈ P, c.toNat ≤ 1023) : KeepsInv s (loadPlane o id P max s) := by
  unfold loadPlane
  split
  · exact reject_keepsInv o s
  · next hsize =>
    refine .of_runwayOnly rfl fun h => ?_
    obtain ⟨hpos, hchunks⟩ := hP h
    refine { h.runway with
      buffer := Nat.le_of_not_lt (not_or.mp hsize).2
      index := Nat.zero_le _
      sending := fun _ => hpos
      chunks := hchunks
      errChunks := fun he => h.runway.errChunks ?_ }
    dsimp only at he
    split at he
    · cases he
    · exact he

theorem startPlane_keepsInv (id : Byte) (s : State) : KeepsInv s (startPlane id s) := by
  unfold startPlane
  split
  · split
    · exact reject_keepsInv _ s
    · next hvalid =>
      split
      · exact reject_keepsInv _ s
      · exact loadPlane_keepsInv fun h =>
          ⟨by simp [ErrPlane.chunks], h.runway.errChunks (Bool.eq_true_of_not_eq_false hvalid)⟩
  · split
    · exact reject_keepsInv _ s
    · next g hfound =>
      split
      · exact reject_keepsInv _ s
      · next hready =>
        refine loadPlane_keepsInv fun h => ?_
        have hok := h.gates g (mem_of_gate? hfound).1
        have htwo := hok.ready (not_not.mp hready)
        exact ⟨by omega, hok.chunks⟩

theorem updateOwner_frame (f : Gate → Gate) (s : State) :
    updateOwner f s = { s with gates := (updateOwner f s).gates } := by
  unfold updateOwner; split <;> rfl

/-- The owner is found without a look at `sending`. -/
theorem updateOwner_setSending (f : Gate → Gate) (b : Bool) (s : State) :
    { updateOwner f s with sending := b } = updateOwner f { s with sending := b } := by
  unfold updateOwner; dsimp only; split <;> rfl

/-- Sending does nothing, or sends a chunk that is not the last, or sends the last one (44_runway.md R179). -/
theorem sendChunk_cases (s : State) :
    sendChunk s = s ∨
    (∃ q, s.txChunk + 1 < s.txBuf.length ∧
      sendChunk s = updateOwner Gate.leaving { s with txQueue := q, txChunk := s.txChunk + 1 }) ∨
    ∃ q, s.txChunk + 1 = s.txBuf.length ∧
      sendChunk s = updateOwner (Gate.left s.params.role)
        ((updateOwner Gate.leaving { s with txQueue := q, txChunk := s.txChunk + 1, sending := false }).report
          .planeDeparted) := by
  unfold sendChunk
  split
  · exact .inl rfl
  · next c hget =>
    have hlt : s.txChunk < s.txBuf.length := (List.getElem?_eq_some_iff.mp hget).1
    dsimp only
    rw [updateOwner_setSending]
    split
    · next hlast =>
      rw [updateOwner_frame] at hlast
      exact .inr (.inr ⟨_, hlast, rfl⟩)
    · next hmore =>
      rw [updateOwner_frame] at hmore
      exact .inr (.inl ⟨_, Nat.lt_of_le_of_ne hlt hmore, rfl⟩)

theorem sendChunk_keepsInv (s : State) : KeepsInv s (sendChunk s) := by
  rcases sendChunk_cases s with h | ⟨q, hlt, h⟩ | ⟨q, hlast, h⟩ <;> rw [h]
  · exact .refl s
  · have hsent : KeepsInv s { s with txQueue := q, txChunk := s.txChunk + 1 } :=
      .of_runwayOnly rfl fun hi => { hi.runway with index := Nat.le_of_lt hlt, sending := fun _ => hlt }
    exact hsent.trans (updateOwner_keepsInv Gate.leaving_conf fun _ hok => hok.leaving)
  · have hstopped : KeepsInv s { s with txQueue := q, txChunk := s.txChunk + 1, sending := false } :=
      .of_runwayOnly rfl fun hi => { hi.runway with index := Nat.le_of_eq hlast, sending := nofun }
    refine hstopped.trans (.trans (updateOwner_keepsInv Gate.leaving_conf fun _ hok => hok.leaving).andReport
      (updateOwner_keepsInv (Gate.left_conf _) fun g hok => ?_))
    rw [State.report_params, updateOwner_frame] at hok ⊢
    exact hok.left

theorem sendIfSending_keepsInv (s : State) : KeepsInv s (sendIfSending s) := by
  unfold sendIfSending
  split
  · exact sendChunk_keepsInv s
  · exact .refl s

theorem txPhase_keepsInv (s : State) : KeepsInv s (txPhase s) := by
  unfold txPhase
  split
  · exact sendChunk_keepsInv s
  · split
    · exact .refl s
    · next hpop => exact (pop_keepsInv hpop).trans ((startPlane_keepsInv _ _).trans (sendIfSending_keepsInv _))

theorem tick_keepsInv (s : State) : KeepsInv s (tick s) := by
  have hbegun : KeepsInv s { s with rejectedThisTick := false } := .of_quietOnly rfl
  have hend : ∀ t, KeepsInv t (endTick t) := fun _ => .of_quietOnly rfl
  unfold tick
  dsimp only
  split
  · exact hbegun.trans ((rxPhase_keepsInv _).trans ((updateGates_keepsInv _).trans
      ((txPhase_keepsInv _).trans (hend _))))
  · exact hbegun.trans ((updateGates_keepsInv _).trans (hend _))

theorem rxByte_keepsInv (b : Byte) (s : State) : KeepsInv s (rxByte b s) := by
  rcases rxByte_cases b s with ⟨hroom, h⟩ | ⟨_, h⟩ <;> rw [h]
  · refine .of_runwayOnly rfl fun hi => { hi.runway with fifo := ?_ }
    simp only [List.length_append, List.length_singleton]
    omega
  · exact .report _ s

theorem txTake_keepsInv {s t : State} {b : Byte} (h : txTake s = some (b, t)) : KeepsInv s t := by
  rcases txTake_cases s with ⟨_, e⟩ | ⟨b', rest, _, e⟩
  · exact nomatch h.symm.trans e
  · cases h.symm.trans e
    exact .of_quietOnly rfl

/-! ### Commands -/

/-- Where a command answers a next state, that state keeps the invariant. -/
def AnswerKeepsInv (s : State) (a : Answer) : Prop := ∀ t, a = .next t → KeepsInv s t

section
variable {s t : State}

theorem AnswerKeepsInv.next (h : KeepsInv s t) : AnswerKeepsInv s (.next t) := by
  intro u hu
  cases hu
  exact h

theorem AnswerKeepsInv.fault (s : State) (f : Fault) : AnswerKeepsInv s (.fault f) := by
  intro t ht
  cases ht

theorem AnswerKeepsInv.refused (s : State) (r : Refusal) : AnswerKeepsInv s (.refused r) := by
  intro t ht
  cases ht

theorem AnswerKeepsInv.finish {code : ResultCode} (h : KeepsInv s t) : AnswerKeepsInv s (finish code t) :=
  .next (h.trans (.of_quietOnly rfl))

theorem AnswerKeepsInv.finish_quiet {code : ResultCode} (h : QuietOnly s t) : AnswerKeepsInv s (Machine.finish code t) :=
  .finish (.of_quietOnly h)

theorem AnswerKeepsInv.reading {α : Type} {cells : Option α} {go : α → Answer}
    (h : ∀ v, cells = some v → AnswerKeepsInv s (go v)) : AnswerKeepsInv s (reading cells go) := by
  rcases reading_cases cells go with ⟨_, e⟩ | ⟨v, hv, e⟩ <;> rw [e]
  · exact .fault s _
  · exact h v hv

theorem AnswerKeepsInv.withPlane {go : List Chunk → Answer} (h : ∀ P, AnswerKeepsInv s (go P)) :
    AnswerKeepsInv s (withPlane s go) := by
  unfold Machine.withPlane
  dsimp only
  split
  · exact .finish_quiet rfl
  · refine .reading fun size _ => ?_
    split
    · exact .finish_quiet rfl
    · exact .reading fun P _ => h P

theorem AnswerKeepsInv.withAnalysis {go : PlaneInfo → Answer} (h : ∀ info, AnswerKeepsInv s (go info)) :
    AnswerKeepsInv s (withAnalysis s go) := by
  refine .reading fun analysis _ => ?_
  split
  · exact .finish_quiet rfl
  · exact h _

/-! #### Stores inside a range -/

theorem Range.le_of_fits {r : Range} {size : Nat} (h : ¬ r.fits size = false) : r.addr + r.len ≤ size := by
  simpa [Range.fits] using h

theorem storePwm_keepsInv {r : Range} {cells : List Chunk} (hfit : ¬ r.fits s.params.pwmSize = false)
    (hlen : cells.length ≤ r.len) : KeepsInv s (storePwm r.addr cells s) :=
  have hend := Range.le_of_fits hfit
  .trans (.writePwm (a := r.addr) (cells := cells) (by omega)) (.of_quietOnly rfl)

theorem storeBwm_keepsInv {r : Range} {bytes : List Byte} (hfit : ¬ r.fits s.params.bwmSize = false)
    (hlen : bytes.length ≤ r.len) : KeepsInv s (storeBwm r.addr bytes s) :=
  have hend := Range.le_of_fits hfit
  .trans (.writeBwm (a := r.addr) (bytes := bytes) (by omega)) (.of_quietOnly rfl)

end

section
variable (s : State)

/-! #### System, chunk and scalar commands -/

theorem execNop_keepsInv : AnswerKeepsInv s (execNop s) := .finish_quiet rfl

theorem execIllegal_keepsInv : AnswerKeepsInv s (execIllegal s) := .finish_quiet rfl

theorem execChunkEncode_keepsInv : AnswerKeepsInv s (execChunkEncode s) := by
  unfold execChunkEncode
  split <;> exact .finish_quiet rfl

theorem execChunkDecode_keepsInv : AnswerKeepsInv s (execChunkDecode s) := by
  unfold execChunkDecode
  split <;> exact .finish_quiet rfl

theorem execChunkToWire_keepsInv : AnswerKeepsInv s (execChunkToWire s) := by
  unfold execChunkToWire
  split <;> exact .finish_quiet rfl

theorem execChunkFromWire_keepsInv : AnswerKeepsInv s (execChunkFromWire s) := by
  unfold execChunkFromWire
  split <;> exact .finish_quiet rfl

theorem execScalarToBytes_keepsInv : AnswerKeepsInv s (execScalarToBytes s) := by
  unfold execScalarToBytes
  dsimp only
  split
  · exact .finish_quiet rfl
  · next hfit =>
    split
    · exact .finish_quiet rfl
    · exact .finish_quiet rfl
    · next t _ _ =>
      split
      · exact .finish_quiet rfl
      · have hstored : ∀ v, KeepsInv s (storeBwm (argRange s.arg3).addr (toBytesLE v (tagWidth t)) s) :=
          fun v => storeBwm_keepsInv hfit (by simp only [toBytesLE, List.length_map, List.length_range]; omega)
        exact .finish ((hstored _).trans (.of_quietOnly rfl))

theorem scalarOut_keepsInv (t : TypeTag) (B : List Byte) : AnswerKeepsInv s (scalarOut t B s) := by
  unfold scalarOut
  split <;> exact .finish_quiet rfl

theorem execScalarToData_keepsInv : AnswerKeepsInv s (execScalarToData s) := by
  unfold execScalarToData
  dsimp only
  split
  · exact .finish_quiet rfl
  · split
    · exact .finish_quiet rfl
    · exact .finish_quiet rfl
    · split
      · exact .finish_quiet rfl
      · exact .reading fun B _ => scalarOut_keepsInv s _ B

theorem execScalarGetArraySize_keepsInv : AnswerKeepsInv s (execScalarGetArraySize s) := by
  unfold execScalarGetArraySize
  split <;> exact .finish_quiet rfl

/-! #### Packet commands -/

theorem execPktCreate_keepsInv : AnswerKeepsInv s (execPktCreate s) := by
  unfold execPktCreate
  dsimp only
  split
  · exact .finish_quiet rfl
  · next hfit =>
    split
    · exact .finish_quiet rfl
    · refine .reading fun S hS => ?_
      have hlen := ((Memory.readRange_eq_some _ _ _ _).mp hS).1
      split
      · exact .finish_quiet rfl
      · exact .finish (storePwm_keepsInv (not_or.mp hfit).2 (by rw [makePlane_length]; omega))

theorem execPktAppend_keepsInv : AnswerKeepsInv s (execPktAppend s) := by
  unfold execPktAppend
  dsimp only
  split
  · exact .finish_quiet rfl
  · next hfit =>
    split
    · exact .finish_quiet rfl
    · refine .reading fun A hA => .reading fun B hB => ?_
      have hlenA := ((Memory.readRange_eq_some _ _ _ _).mp hA).1
      have hlenB := ((Memory.readRange_eq_some _ _ _ _).mp hB).1
      exact .finish (storePwm_keepsInv (not_or.mp (not_or.mp hfit).2).2 (by rw [List.length_append]; omega))

theorem execPktSegFromBytes_keepsInv : AnswerKeepsInv s (execPktSegFromBytes s) := by
  unfold execPktSegFromBytes
  dsimp only
  split
  · exact .finish_quiet rfl
  · next hfit =>
    split
    · exact .finish_quiet rfl
    · refine .reading fun B hB => ?_
      have hlen := ((Memory.readRange_eq_some _ _ _ _).mp hB).1
      refine .finish (storePwm_keepsInv (not_or.mp hfit).2 ?_)
      simp only [paramSegment, List.length_cons, List.length_map]
      omega

theorem execPktVerifyCheckSum_keepsInv : AnswerKeepsInv s (execPktVerifyCheckSum s) := by
  refine .withPlane fun P => ?_
  split <;> exact .finish_quiet rfl

theorem execPktGetTotalSize_keepsInv : AnswerKeepsInv s (execPktGetTotalSize s) :=
  .withPlane fun _ => .finish_quiet rfl

theorem execPktVerifyID_keepsInv : AnswerKeepsInv s (execPktVerifyID s) := by
  unfold execPktVerifyID
  dsimp only
  split
  · exact .finish_quiet rfl
  · split
    · exact .finish_quiet rfl
    · refine .reading fun c _ => ?_
      split
      · exact .finish_quiet rfl
      · split <;> exact .finish_quiet rfl

theorem execPktGetParamCount_keepsInv : AnswerKeepsInv s (execPktGetParamCount s) :=
  .withPlane fun _ => .finish_quiet rfl

theorem execPktSegToBytes_keepsInv : AnswerKeepsInv s (execPktSegToBytes s) := by
  unfold execPktSegToBytes
  dsimp only
  split
  · exact .finish_quiet rfl
  · next hfit =>
    split
    · exact .finish_quiet rfl
    · refine .reading fun c _ => ?_
      split
      · exact .finish_quiet rfl
      · refine .reading fun bytes _ => ?_
        split
        · exact .finish_quiet rfl
        · split
          · exact .finish_quiet rfl
          · next hroom => exact .finish (storeBwm_keepsInv (not_or.mp hfit).2 (Nat.le_of_not_lt hroom))

theorem execPktFullyAnalyze_keepsInv : AnswerKeepsInv s (execPktFullyAnalyze s) := by
  unfold execPktFullyAnalyze
  split
  · exact .finish_quiet rfl
  · exact .withAnalysis fun _ => .finish_quiet rfl

theorem execPktGetParameter_keepsInv : AnswerKeepsInv s (execPktGetParameter s) := by
  unfold execPktGetParameter
  dsimp only
  split
  · exact .finish_quiet rfl
  · next hfit =>
    refine .withAnalysis fun info => ?_
    split
    · exact .finish_quiet rfl
    · split
      · exact .finish_quiet rfl
      · next hroom => exact .finish (storeBwm_keepsInv (not_or.mp hfit).2 (Nat.le_of_not_lt hroom))

/-! #### Terminal commands -/

theorem execTermPut_keepsInv : AnswerKeepsInv s (execTermPut s) := .finish (put_keepsInv _ s)

theorem execTermIsOnTaxiway_keepsInv : AnswerKeepsInv s (execTermIsOnTaxiway s) := .finish_quiet rfl

theorem execTermPop_keepsInv : AnswerKeepsInv s (execTermPop s) := by
  unfold execTermPop
  split
  · exact .finish_quiet rfl
  · next hpop => exact .finish ((pop_keepsInv hpop).trans (.of_quietOnly rfl))

theorem execTermArriveChunk_keepsInv : AnswerKeepsInv s (execTermArriveChunk s) := by
  unfold execTermArriveChunk
  split
  · exact .finish_quiet rfl
  · exact .finish ((arriveAndDock_keepsInv _ s).trans (.of_quietOnly rfl))

theorem execTermTakeArrival_keepsInv : AnswerKeepsInv s (execTermTakeArrival s) := by
  unfold execTermTakeArrival
  dsimp only
  split
  · exact .finish_quiet rfl
  · next hfit =>
    split
    · exact .finish_quiet rfl
    · split
      · exact .finish_quiet rfl
      · next hroom =>
        have hstored : KeepsInv (takeArrival s).2 (storePwm (argRange s.arg0).addr (takeArrival s).1 (takeArrival s).2) :=
          storePwm_keepsInv hfit (Nat.le_of_not_lt hroom)
        exact .finish ((takeArrival_keepsInv s).trans (hstored.trans (.of_quietOnly rfl)))

theorem execTermArrivalInfo_keepsInv : AnswerKeepsInv s (execTermArrivalInfo s) := .finish_quiet rfl

theorem execTermReset_keepsInv : AnswerKeepsInv s (execTermReset s) := by
  have harrival : KeepsInv s
      { s with arrState := .idle, packetAvailable := false, arrBuf := [], runSum := 0, receivingID := 0 } :=
    .of_arrivalOnly rfl fun _ => ⟨by simp, fun _ => ⟨rfl, rfl⟩, nofun, nofun⟩
  have htaxiway : ∀ t, KeepsInv t { t with tax := [], departureStatus := .initialised } := fun t =>
    .setTaxiway fun _ => ⟨List.nodup_nil, Nat.zero_le _⟩
  refine .finish (harrival.trans ((htaxiway _).trans ?_))
  exact .of_runwayOnly rfl fun h => { h.runway with errChunks := nofun }

/-! #### Gate commands -/

theorem requestWith_keepsInv {g : Gate} {L : List (List Byte)} (hg : g ∈ s.gates) (h8 : g.conf.gateID ≠ 8) :
    AnswerKeepsInv s (requestWith g L s) := by
  unfold requestWith
  split
  · exact .finish_quiet rfl
  · split
    · exact .finish_quiet rfl
    · next P hbuild =>
      have hput := put_keepsInv g.conf.gateID s
      have hgates := put_gates g.conf.gateID s
      split
      · next heq =>
        rw [heq] at hput hgates
        have hconf := hgates.symm ▸ List.mem_map_of_mem (f := Gate.conf) hg
        exact .finish (hput.trans ((KeepsInv.request hconf (build_sendable hbuild) h8).trans (.of_quietOnly rfl)))
      · next heq =>
        rw [heq] at hput
        exact .finish hput

/-- The whole register names the gate, so a register that does not hold 8 does not name gate 8 (45_gate.md R213). -/
theorem mem_of_gateOfWord? {v : Word} {g : Gate} (h : s.gateOfWord? v = some g) :
    g ∈ s.gates ∧ (v ≠ 8 → g.conf.gateID ≠ 8) := by
  unfold State.gateOfWord? at h
  split at h
  · next hv =>
    obtain ⟨hmem, hid⟩ := mem_of_gate? h
    exact ⟨hmem, by rw [hid]; bv_omega⟩
  · cases h

theorem execGateRequest_keepsInv : AnswerKeepsInv s (execGateRequest s) := by
  unfold execGateRequest
  dsimp only
  split
  · exact .finish_quiet rfl
  · split
    · exact .finish_quiet rfl
    · next g hfound =>
      split
      · exact .finish_quiet rfl
      · next hopen =>
        obtain ⟨hmem, h8⟩ := mem_of_gateOfWord? s hfound
        refine .reading fun parsed _ => ?_
        split
        · exact .finish_quiet rfl
        · exact requestWith_keepsInv s hmem (h8 fun e => hopen (.inr (.inl e)))

theorem execGateRead_keepsInv : AnswerKeepsInv s (execGateRead s) := by
  unfold execGateRead
  dsimp only
  split
  · exact .finish_quiet rfl
  · next hfit =>
    split
    · exact .finish_quiet rfl
    · next g _ =>
      split
      · exact .finish_quiet rfl
      · split
        · exact .finish_quiet rfl
        · next hroom =>
          have hcleaned : KeepsInv s (s.updateGate g.conf.gateID fun g => { g with status := .cleaned }) :=
            .updateGate (fun _ => rfl) fun _ _ _ _ hok => hok.cleaned _ _
          have hstored := storeBwm_keepsInv (s := s.updateGate g.conf.gateID fun g => { g with status := .cleaned }) hfit
            (Nat.le_of_not_lt hroom)
          exact .finish (hcleaned.trans (hstored.trans (.of_quietOnly rfl)))

theorem execGateStatus_keepsInv : AnswerKeepsInv s (execGateStatus s) := by
  unfold execGateStatus
  split <;> exact .finish_quiet rfl

theorem execGateDock_keepsInv : AnswerKeepsInv s (execGateDock s) :=
  .withPlane fun P => .finish (dock_keepsInv P s)

end

/-- Every command keeps the invariant, whatever its operands. -/
theorem exec_keepsInv (i : Instr) (s : State) : AnswerKeepsInv s (exec i s) :=
  match i with
  | .nop => execNop_keepsInv s
  | .chunkEncode => execChunkEncode_keepsInv s
  | .chunkDecode => execChunkDecode_keepsInv s
  | .chunkToWire => execChunkToWire_keepsInv s
  | .chunkFromWire => execChunkFromWire_keepsInv s
  | .scalarToBytes => execScalarToBytes_keepsInv s
  | .scalarToData => execScalarToData_keepsInv s
  | .scalarGetArraySize => execScalarGetArraySize_keepsInv s
  | .pktCreate => execPktCreate_keepsInv s
  | .pktAppend => execPktAppend_keepsInv s
  | .pktSegFromBytes => execPktSegFromBytes_keepsInv s
  | .pktVerifyCheckSum => execPktVerifyCheckSum_keepsInv s
  | .pktGetTotalSize => execPktGetTotalSize_keepsInv s
  | .pktVerifyID => execPktVerifyID_keepsInv s
  | .pktGetParamCount => execPktGetParamCount_keepsInv s
  | .pktSegToBytes => execPktSegToBytes_keepsInv s
  | .pktFullyAnalyze => execPktFullyAnalyze_keepsInv s
  | .pktGetParameter => execPktGetParameter_keepsInv s
  | .termPut => execTermPut_keepsInv s
  | .termIsOnTaxiway => execTermIsOnTaxiway_keepsInv s
  | .termPop => execTermPop_keepsInv s
  | .termArriveChunk => execTermArriveChunk_keepsInv s
  | .termTakeArrival => execTermTakeArrival_keepsInv s
  | .termArrivalInfo => execTermArrivalInfo_keepsInv s
  | .termReset => execTermReset_keepsInv s
  | .gateRequest => execGateRequest_keepsInv s
  | .gateRead => execGateRead_keepsInv s
  | .gateStatus => execGateStatus_keepsInv s
  | .gateDock => execGateDock_keepsInv s

/-! ### The host bus and the step -/

theorem deliver_keepsInv (w : Word) (s : State) : AnswerKeepsInv s (deliver w s) := .next (.of_quietOnly rfl)

theorem hostRead_keepsInv (addr : Addr) (width : Nat) (s : State) : AnswerKeepsInv s (hostRead addr width s) := by
  unfold hostRead
  split
  · exact .fault s _
  · split
    · exact deliver_keepsInv _ s
    · exact .reading fun w _ => deliver_keepsInv w s
    · exact .reading fun c _ => deliver_keepsInv _ s
    · exact .fault s _

theorem writeCtrl_keepsInv (w : Word) (s : State) : KeepsInv s (writeCtrl w s) := by
  unfold writeCtrl
  dsimp only
  split
  · refine .trans ?_ (.blockReset _)
    exact .of_quietOnly rfl
  · exact .of_quietOnly rfl

theorem runCommand_keepsInv (w : Word) (s : State) : AnswerKeepsInv s (runCommand w s) := by
  unfold runCommand
  split
  · exact exec_keepsInv _ s
  · exact execIllegal_keepsInv s

theorem writeRegister_keepsInv (a : Nat) (w : Word) (s : State) : AnswerKeepsInv s (writeRegister a w s) := by
  unfold writeRegister
  split
  · exact .next (writeCtrl_keepsInv w s)
  · exact runCommand_keepsInv w s
  all_goals exact .next (.of_quietOnly rfl)

/-- The memory windows end with their memories (20_memory.md R65). -/
theorem windowOf_cases (p : Params) (addr : Addr) :
    (∃ a, windowOf p addr = .register a) ∨ (∃ k, 4 * k < p.bwmSize ∧ windowOf p addr = .bwmWord k) ∨
      (∃ k, k < p.pwmSize ∧ windowOf p addr = .pwmCell k) ∨ windowOf p addr = .outside := by
  unfold windowOf bwmWords
  dsimp only
  split
  · exact .inl ⟨_, rfl⟩
  · split
    · exact .inr (.inl ⟨_, by omega, rfl⟩)
    · split
      · next hpwm => exact .inr (.inr (.inl ⟨_, hpwm.2, rfl⟩))
      · exact .inr (.inr (.inr rfl))

theorem hostWrite_keepsInv (addr : Addr) (width : Nat) (w : Word) (s : State) :
    AnswerKeepsInv s (hostWrite addr width w s) := by
  unfold hostWrite
  split
  · exact .fault s _
  · rcases windowOf_cases s.params addr with ⟨a, h⟩ | ⟨k, hk, h⟩ | ⟨k, hk, h⟩ | h <;> rw [h]
    · exact writeRegister_keepsInv a w s
    · refine .next (.writeBwm ?_)
      have := List.length_take_le (s.params.bwmSize - 4 * k)
        ([w.extractLsb' 0 8, w.extractLsb' 8 8, w.extractLsb' 16 8, w.extractLsb' 24 8] : List Byte)
      unfold bwmWordBytes
      omega
    · exact .next (.writePwm (cells := [w.setWidth 16]) hk)
    · exact .fault s _

/-- Every event of every agent keeps the invariant. -/
theorem applyInput_keepsInv (i : Input) (s : State) : AnswerKeepsInv s (applyInput i s) := by
  cases i with
  | hostRead addr width => exact hostRead_keepsInv addr width s
  | hostWrite addr width data => exact hostWrite_keepsInv addr width data s
  | tick => exact .next (tick_keepsInv s)
  | rxByte b => exact .next (rxByte_keepsInv b s)
  | txTake =>
    unfold applyInput
    dsimp only
    split
    · exact .refused s _
    · next htake => exact .next (txTake_keepsInv htake)
  | setLink up => exact .next (.of_quietOnly rfl)

theorem step_keepsInv (s : State) : AnswerKeepsInv s (step s) := by
  unfold step
  split
  · exact .next (.refl s)
  · next i rest _ =>
    have htaken : KeepsInv s { s with inputs := rest } := .of_quietOnly rfl
    exact fun t ht => htaken.trans (applyInput_keepsInv i _ t ht)

/-- Settles O59: every event of every agent keeps the invariant, each by the updates it is made of. -/
theorem stepKeepsInvariant : Obligations.StepKeepsInvariant := fun s t hs ht => step_keepsInv s t ht hs

end Sys2Proof.Machine
end

section
/-! PROOF of O26 and O60: the pop of the departure taxiway, and the state after power-on. -/

namespace Sys2Proof.Machine

/-- Settles O26, by the two ways `pop` can end. -/
theorem termPop : Obligations.TermPop := by
  refine fun s => ⟨fun hempty => ?_, fun id rest htax => ?_⟩
  · rcases pop_cases s with ⟨_, hpop⟩ | ⟨_, _, hcons, _⟩
    · simp only [exec, execTermPop, hpop, finish]
    · exact nomatch hempty.symm.trans hcons
  · rcases pop_cases s with ⟨hempty, _⟩ | ⟨id', rest', hcons, hpop⟩
    · exact nomatch hempty.symm.trans htax
    · obtain ⟨rfl, rfl⟩ := List.cons.inj (hcons.symm.trans htax)
      have hstatus : (if rest'.length > 0 then TerminalStatus.departureAvailable else .initialised) =
          if rest' = [] then .initialised else .departureAvailable := by cases rest' <;> rfl
      simp only [exec, execTermPop, hpop, finish, hstatus, BitVec.ofNat_toNat]

/-- Settles O60: `State.powerOn_inv`, and the example configuration is well formed. -/
theorem powerOnSatisfiesInvariant : Obligations.PowerOnSatisfiesInvariant :=
  ⟨fun _ up hc => State.powerOn_inv up hc, State.powerOn_inv true (by decide)⟩

end Sys2Proof.Machine
end

section
/-! PROOF of O47: the highway status a tick leaves, and the count of the ticks. `endTick` computes the status from fields it
does not write, and the phases before it leave TICK_COUNT alone. -/

namespace Sys2Proof.Machine

/-! ### Only the end of a tick writes TICK_COUNT -/

@[simp] theorem updateGates_tickCount (s : State) : (updateGates s).tickCount = s.tickCount := by
  rw [updateGates_frame]

@[simp] theorem arriveAndDock_tickCount (c : Chunk) (s : State) : (arriveAndDock c s).tickCount = s.tickCount := by
  have hframe := arriveAndDock_frame c s
  unfold ReceptionOnly at hframe
  rw [hframe]

@[simp] theorem rxByteToChunk_tickCount (s : State) (b : Byte) : (rxByteToChunk s b).tickCount = s.tickCount := by
  rcases rxByteToChunk_cases s b with ⟨_, h⟩ | ⟨_, _, h⟩ | ⟨_, _, h⟩ <;> simp [h]

@[simp] theorem foldl_rxByteToChunk_tickCount (bs : List Byte) (s : State) :
    (bs.foldl rxByteToChunk s).tickCount = s.tickCount := by
  induction bs generalizing s with
  | nil => rfl
  | cons b bs ih => rw [List.foldl_cons, ih, rxByteToChunk_tickCount]

@[simp] theorem rxPhase_tickCount (s : State) : (rxPhase s).tickCount = s.tickCount :=
  foldl_rxByteToChunk_tickCount _ _

@[simp] theorem updateOwner_tickCount (f : Gate → Gate) (s : State) : (updateOwner f s).tickCount = s.tickCount := by
  rw [updateOwner_frame]

@[simp] theorem sendChunk_tickCount (s : State) : (sendChunk s).tickCount = s.tickCount := by
  rcases sendChunk_cases s with h | ⟨_, _, h⟩ | ⟨_, _, h⟩ <;> simp [h]

@[simp] theorem sendIfSending_tickCount (s : State) : (sendIfSending s).tickCount = s.tickCount := by
  unfold sendIfSending
  split
  · exact sendChunk_tickCount s
  · rfl

@[simp] theorem reject_tickCount (o : TxOwner) (s : State) : (reject o s).tickCount = s.tickCount := by
  cases o <;> rfl

@[simp] theorem loadPlane_tickCount (o : TxOwner) (id : Byte) (P : List Chunk) (max : Nat) (s : State) :
    (loadPlane o id P max s).tickCount = s.tickCount := by
  unfold loadPlane
  split
  · exact reject_tickCount o s
  · rfl

@[simp] theorem startPlane_tickCount (id : Byte) (s : State) : (startPlane id s).tickCount = s.tickCount := by
  unfold startPlane
  repeat' split
  all_goals simp only [reject_tickCount, loadPlane_tickCount]

@[simp] theorem txPhase_tickCount (s : State) : (txPhase s).tickCount = s.tickCount := by
  unfold txPhase
  split
  · exact sendChunk_tickCount s
  · rcases pop_cases s with ⟨_, h⟩ | ⟨_, _, _, h⟩ <;> simp [h]

/-- A tick counts itself (R35, R171). -/
theorem tick_tickCount (s : State) : (tick s).tickCount = s.tickCount + 1 := by
  unfold tick
  dsimp only
  split <;> simp

/-! ### The highway status -/

/-- The end of a tick writes nothing the highway status is computed from. -/
@[simp] theorem endTick_highway (s : State) : (endTick s).highway = s.highway := rfl

/-- The highway status after a tick is that of the state the tick leaves (R182). -/
theorem tick_hwStatus (s : State) : (tick s).hwStatus = (tick s).highway := by
  unfold tick
  dsimp only
  split <;> rw [endTick_highway, endTick_hwStatus]

/-- What a tick leaves of the fields the highway status reads (R172). -/
theorem tick_highway_inputs (s : State) :
    (tick s).enable = s.enable ∧ (tick s).linkUp = s.linkUp ∧ (tick s).params = s.params := by
  have hframe := tick_frame s
  unfold TickOnly at hframe
  rw [hframe]
  exact ⟨rfl, rfl, rfl⟩

/-- Settles O47: `tick_hwStatus`, with the fields of the state before that the tick keeps, and `tick_tickCount`. -/
theorem highwayStatusAfterTick : Obligations.HighwayStatusAfterTick := by
  refine fun s => ⟨?_, tick_tickCount s⟩
  obtain ⟨henable, hlink, hparams⟩ := tick_highway_inputs s
  rw [tick_hwStatus, State.highway, henable, hlink, hparams]
  simp only [State.taxCount, gt_iff_lt, List.length_pos_iff]

end Sys2Proof.Machine
end

section
/-! PROOF of O52, O53 and O54: the registers as the host writes and reads them. A host access to a word of the register
window is `readRegister` or `writeRegister` of its address; each statement is then about one word after the other. -/

namespace Sys2Proof.Machine

/-! ### Host accesses to the register window -/

section
variable {s : State} {addr : Addr} {w : Word} {rest : List Input}

theorem accessShapeOK_of_aligned (haligned : addr.toNat % 4 = 0) : accessShapeOK addr 32 = true := by
  simp [accessShapeOK, haligned]

theorem windowOf_of_lt (p : Params) (hlt : addr.toNat < 0x100) : windowOf p addr = .register addr.toNat := if_pos hlt

/-- A host write of a word of the register window is the write of that register (R29, R65). -/
theorem step_registerWrite (hin : s.inputs = .hostWrite addr 32 w :: rest) (hlt : addr.toNat < 0x100)
    (haligned : addr.toNat % 4 = 0) : step s = writeRegister addr.toNat w { s with inputs := rest } := by
  simp [step, hin, applyInput, hostWrite, accessShapeOK_of_aligned haligned, windowOf_of_lt _ hlt]

/-- A host read of a word of the register window delivers that register (R29, R65). -/
theorem step_registerRead (hin : s.inputs = .hostRead addr 32 :: rest) (hlt : addr.toNat < 0x100)
    (haligned : addr.toNat % 4 = 0) :
    step s = .next { s with inputs := rest, hostData := readRegister s addr.toNat } := by
  have hdata : readRegister { s with inputs := rest } addr.toNat = readRegister s addr.toNat := rfl
  simp [step, hin, applyInput, hostRead, accessShapeOK_of_aligned haligned, windowOf_of_lt _ hlt, deliver, hdata]

end

/-! ### CTRL and the block reset -/

/-- Without bit 3 a write to CTRL stores its three fields (R32). -/
theorem writeCtrl_of_keep {w : Word} (hbit : w.getLsbD 3 = false) (s : State) :
    writeCtrl w s =
      { s with
        enable := w.getLsbD 0
        mode := if w.getLsbD 1 then .rejectIncoming else .regular
        autoDock := w.getLsbD 2 } := by
  rw [writeCtrl, if_neg (ne_true_of_eq_false hbit)]

/-- With bit 3 a write to CTRL resets the block, and the fields written do not matter (R32, R250). -/
theorem writeCtrl_of_reset {w : Word} (hbit : w.getLsbD 3 = true) (s : State) : writeCtrl w s = s.blockReset := by
  rw [writeCtrl, if_pos hbit]
  rfl

/-- The block reset keeps the configuration (R249). -/
theorem State.blockReset_config (s : State) : s.blockReset.config = s.config := State.powerOn_config s.config s.linkUp

/-- Every gate after the block reset holds the reset values of R54. -/
theorem State.blockReset_gates (s : State) : ∀ g ∈ s.blockReset.gates,
    g.status = .cleaned ∧ g.timer = 0 ∧ g.lastResult = .passed ∧ g.depPlane = [] ∧ g.arrParams = [] := by
  intro g hg
  obtain ⟨c, _, rfl⟩ := List.mem_map.mp hg
  exact ⟨rfl, rfl, rfl, rfl, rfl⟩

/-- Settles O52: the two forms of a write to CTRL, and the reset state field by field. -/
theorem controlWriteAndReset : Obligations.ControlWriteAndReset := by
  intro s w rest hin
  have hstep : step s = .next (writeCtrl w { s with inputs := rest }) := step_registerWrite hin (by decide) (by decide)
  refine ⟨fun hkeep => by rw [hstep, writeCtrl_of_keep hkeep], fun hreset => ?_⟩
  rw [writeCtrl_of_reset hreset] at hstep
  exact ⟨_, hstep, State.blockReset_config _, rfl, rfl, rfl, rfl, rfl, rfl, rfl, rfl, rfl, rfl, rfl, rfl, rfl, rfl, rfl, rfl,
    rfl, rfl, rfl, rfl, rfl, rfl, rfl, rfl, rfl, rfl, rfl, rfl, rfl, rfl, rfl, rfl, rfl, rfl, rfl, fun _ => rfl,
    fun _ => rfl, State.blockReset_gates _⟩

/-! ### The other registers the host writes -/

/-- A register word that is read-only or reserved ignores a write (R40). -/
theorem writeRegister_of_readOnly {a : Nat} (h : a ∉ [0x004, 0x00C, 0x010, 0x014, 0x018, 0x01C, 0x03C, 0x040])
    (w : Word) (s : State) : writeRegister a w s = .next s := by
  unfold writeRegister
  split
  case h_9 => rfl
  all_goals exact absurd (by decide) h

/-- The interrupt output is high exactly while an event and its enable are both 1 (R233). -/
theorem State.irq_iff (s : State) :
    s.irq = true ↔ ∃ i < 19, s.events.getLsbD i = true ∧ s.irqEnable.getLsbD i = true := by
  simp only [State.irq, bne_iff_ne, ← Bool.and_eq_true, ← BitVec.getLsbD_and]
  constructor
  · intro hne
    by_contra! hall
    exact hne (BitVec.eq_of_getLsbD_eq fun i hi => by simpa using hall i hi)
  · rintro ⟨i, _, hi⟩ hzero
    simp [hzero] at hi

/-- Settles O53: each word of the register window the statement names, and `State.irq_iff`. -/
theorem registerWrites : Obligations.RegisterWrites := by
  refine fun s addr w rest => ⟨fun hin => ?_, s.irq_iff⟩
  have hword {a : Nat} (ha : addr.toNat = a) (hlt : a < 0x100) (haligned : a % 4 = 0) :
      step s = writeRegister a w { s with inputs := rest } := by
    subst ha
    exact step_registerWrite hin hlt haligned
  refine ⟨fun ha => hword ha (by decide) (by decide), fun ha => hword ha (by decide) (by decide),
    fun ha => hword ha (by decide) (by decide), fun ha => hword ha (by decide) (by decide),
    fun ha => ⟨_, hword ha (by decide) (by decide), rfl, fun i hi => ?_⟩,
    fun ha => ⟨_, hword ha (by decide) (by decide), rfl, fun i hi => ?_⟩, fun ha => ?_⟩
  · simp [hi]
  · simp [hi]
  · rw [hword rfl (by omega) (by omega)]
    refine writeRegister_of_readOnly ?_ w _
    simp only [List.mem_cons, List.not_mem_nil, or_false]
    omega

/-! ### The registers computed from the state -/

/-- Fields add up where the lower ones end below the next. -/
theorem ofNat_or_field {x v lo : Nat} (hx : x < 2 ^ lo) :
    BitVec.ofNat 32 x ||| field v lo = BitVec.ofNat 32 (x + 2 ^ lo * v) := by
  rw [field, ← BitVec.ofNat_or, Nat.add_comm, Nat.two_pow_add_eq_or_of_lt hx, Nat.or_comm, Nat.mul_comm v]

theorem field_zero (v : Nat) : field v 0 = BitVec.ofNat 32 v := by rw [field, Nat.pow_zero, Nat.mul_one]

section
variable (s : State)

/-- INFO (R30). -/
theorem State.infoWord_eq {r : Nat} (hr : (roleBit s.params.role).toNat = r) :
    s.infoWord = BitVec.ofNat 32 (7 + 2 ^ 8 * r) := by
  rw [State.infoWord, hr, field_zero, ofNat_or_field (by decide)]

/-- CTRL (R31). -/
theorem State.ctrlWord_eq {m : Nat} (hm : s.mode.bit.toNat = m) :
    s.ctrlWord = BitVec.ofNat 32 (s.enable.toNat + 2 ^ 1 * m + 2 ^ 2 * s.autoDock.toNat) := by
  have := s.enable.toNat_lt
  have := s.mode.bit.isLt
  rw [State.ctrlWord, hm, field_zero, ofNat_or_field (by omega), ofNat_or_field (by omega)]

/-- STATUS (R33). -/
theorem State.statusWord_eq {a b c d : Nat} (ha : s.arrState.code.toNat = a) (hb : s.arrivalStatus.code.toNat = b)
    (hc : s.departureStatus.code.toNat = c) (hd : s.hwStatus.code.toNat = d) :
    s.statusWord = BitVec.ofNat 32 (a + 2 ^ 2 * s.packetAvailable.toNat + 2 ^ 4 * b + 2 ^ 8 * c + 2 ^ 12 * d +
      2 ^ 15 * s.sending.toNat + 2 ^ 16 * (s.tax.length % 256) + 2 ^ 24 * s.rxLatchValid.toNat + 2 ^ 25 * s.irq.toNat +
      2 ^ 26 * s.errValid.toNat) := by
  have := s.arrState.code.isLt
  have := s.packetAvailable.toNat_lt
  have := s.arrivalStatus.code.isLt
  have := s.departureStatus.code.isLt
  have := s.hwStatus.code.isLt
  have := s.sending.toNat_lt
  have := s.rxLatchValid.toNat_lt
  have := s.irq.toNat_lt
  rw [State.statusWord, State.taxCount, ha, hb, hc, hd, field_zero]
  rw [ofNat_or_field (by omega), ofNat_or_field (by omega), ofNat_or_field (by omega), ofNat_or_field (by omega),
    ofNat_or_field (by omega), ofNat_or_field (by omega), ofNat_or_field (by omega), ofNat_or_field (by omega),
    ofNat_or_field (by omega)]

/-- RESULT (R29, R229). -/
theorem State.resultWord_eq {r : Nat} (hr : s.result.code.toNat = r) :
    s.result.code.setWidth 32 = BitVec.ofNat 32 r := by rw [← hr, BitVec.ofNat_toNat]

/-- ARRIVAL_INFO (R34). -/
theorem State.arrivalInfoWord_eq :
    s.arrivalInfoWord =
      BitVec.ofNat 32 (s.receivingID.toNat + 2 ^ 8 * (s.arrBuf.length % 65536) + 2 ^ 24 * s.runSum.toNat) := by
  have := s.receivingID.isLt
  rw [State.arrivalInfoWord, State.cursor, field_zero, ofNat_or_field (by omega), ofNat_or_field (by omega)]

/-- TX_INFO (R38). -/
theorem State.txInfoWord_eq :
    s.txInfoWord = BitVec.ofNat 32 (s.txChunk % 65536 + 2 ^ 16 * (s.txBuf.length % 65536)) := by
  rw [State.txInfoWord, State.txLen, field_zero, ofNat_or_field (by omega)]

/-- PARAMS0 (R39). -/
theorem State.params0Word_eq :
    s.params0Word =
      BitVec.ofNat 32 (s.params.sizeOfArrivalPlane % 65536 + 2 ^ 16 * (s.params.sizeOfDepartureTaxiway % 256)) := by
  rw [State.params0Word, field_zero, ofNat_or_field (by omega)]

end

/-- CMD and the words at 0x050 and above read 0 (R29, R40). -/
theorem readRegister_of_reserved (s : State) {a : Nat} (h : 0x050 ≤ a) : readRegister s a = 0 := by
  unfold readRegister
  split
  case h_20 => rfl
  all_goals omega

/-- Settles O54: one equation per word, the fields of the computed ones added up by `ofNat_or_field`. -/
theorem registerReads : Obligations.RegisterReads := by
  intro s addr rest v hin hv
  suffices hword : addr.toNat < 0x100 ∧ addr.toNat % 4 = 0 ∧ readRegister s addr.toNat = BitVec.ofNat 32 v by
    obtain ⟨hlt, haligned, hread⟩ := hword
    rw [step_registerRead hin hlt haligned, hread]
  generalize addr.toNat = a at hv ⊢
  simp only [List.mem_cons, Prod.mk.injEq, List.not_mem_nil, or_false] at hv
  rcases hv with (h | h | h | h | h | h | h | h | h | h | h | h | h | h | h | h | h | h | h | h) |
    ⟨hge, hlt, haligned, rfl⟩
  case inr => exact ⟨hlt, haligned, readRegister_of_reserved s hge⟩
  all_goals obtain ⟨rfl, rfl⟩ := h; refine ⟨by decide, by decide, ?_⟩
  · exact s.infoWord_eq (by cases s.params.role <;> rfl)
  · exact s.ctrlWord_eq (by cases s.mode <;> rfl)
  · exact s.statusWord_eq (by cases s.arrState <;> rfl) (by cases s.arrivalStatus <;> rfl)
      (by cases s.departureStatus <;> rfl) (by cases s.hwStatus <;> rfl)
  · rfl
  · exact (BitVec.ofNat_toNat 32 s.arg0).symm
  · exact (BitVec.ofNat_toNat 32 s.arg1).symm
  · exact (BitVec.ofNat_toNat 32 s.arg2).symm
  · exact (BitVec.ofNat_toNat 32 s.arg3).symm
  · exact s.resultWord_eq (by cases s.result <;> rfl)
  · exact (BitVec.ofNat_toNat 32 s.ret0).symm
  · exact (BitVec.ofNat_toNat 32 s.ret1).symm
  · exact (BitVec.ofNat_toNat 32 s.ret2).symm
  · exact (BitVec.ofNat_toNat 32 s.ret3).symm
  · exact s.arrivalInfoWord_eq
  · exact (BitVec.ofNat_toNat 32 s.tickCount).symm
  · exact (BitVec.ofNat_toNat 32 s.events).symm
  · exact (BitVec.ofNat_toNat 32 s.irqEnable).symm
  · exact s.txInfoWord_eq
  · exact (BitVec.ofNat_toNat 32 s.txID).symm
  · exact s.params0Word_eq

end Sys2Proof.Machine
end

section
/-! PROOF of O57: what no command writes. `CommandEffect s t` says that `t` differs from `s` in what commands write alone,
with the gate table and every EVENTS bit kept; it composes. `CommandEnd` adds the rule of the RET registers, and `NextHas`
carries it through the ways a command can end. -/

namespace Sys2Proof.Machine

/-! ### Answers whose next state has a property -/

/-- Where a command answers a next state, that state has the property. -/
def NextHas (Q : State → Prop) (a : Answer) : Prop := ∀ t, a = .next t → Q t

section
variable {Q : State → Prop} {s t : State}

theorem NextHas.finish {code : ResultCode} (h : Q { t with result := code }) : NextHas Q (finish code t) := by
  intro u hu
  cases hu
  exact h

theorem NextHas.reading {α : Type} {cells : Option α} {go : α → Answer} (h : ∀ v, NextHas Q (go v)) :
    NextHas Q (reading cells go) := by
  rcases reading_cases cells go with ⟨_, e⟩ | ⟨v, _, e⟩ <;> rw [e]
  · exact fun u hu => nomatch hu
  · exact h v

/-- A command over a plane ends without one, and then writes RESULT alone, or goes on with it (R118). -/
theorem NextHas.withPlane {go : List Chunk → Answer} (hnone : ∀ code, Q { s with result := code })
    (h : ∀ P, NextHas Q (go P)) : NextHas Q (withPlane s go) := by
  unfold Machine.withPlane
  dsimp only
  split
  · exact .finish (hnone _)
  · refine .reading fun size => ?_
    split
    · exact .finish (hnone _)
    · exact .reading h

/-- A command over an analyzed plane ends with its failure, or goes on with it (R120). -/
theorem NextHas.withAnalysis {go : PlaneInfo → Answer} (hnone : ∀ code, Q { s with result := code })
    (h : ∀ info, NextHas Q (go info)) : NextHas Q (withAnalysis s go) := by
  refine .reading fun analysis => ?_
  split
  · exact .finish (hnone _)
  · exact h _

end

/-! ### What commands write -/

/-- A state that differs from another in RESULT, the RET registers and the work memories alone. -/
def WorkOnly (s t : State) : Prop :=
  t = { s with
    result := t.result
    ret0 := t.ret0
    ret1 := t.ret1
    ret2 := t.ret2
    ret3 := t.ret3
    bwm := t.bwm
    pwm := t.pwm }

/-- A state that differs from another in what commands may write alone: the work, and what reception writes
(46_system.md R227). -/
def CommandOnly (s t : State) : Prop :=
  WorkOnly { s with
    gates := t.gates
    tax := t.tax
    departureStatus := t.departureStatus
    errPlane := t.errPlane
    errValid := t.errValid
    events := t.events
    arrState := t.arrState
    packetAvailable := t.packetAvailable
    arrBuf := t.arrBuf
    runSum := t.runSum
    receivingID := t.receivingID
    arrivalStatus := t.arrivalStatus } t

/-- What a command may do to the state: its writes, with the gate table and every EVENTS bit kept. -/
structure CommandEffect (s t : State) : Prop where
  frame : CommandOnly s t
  confs : t.gates.map (·.conf) = s.gates.map (·.conf)
  events : EventsKept s t

/-- The RET registers are as they were. -/
def RetsKept (s t : State) : Prop := t.ret0 = s.ret0 ∧ t.ret1 = s.ret1 ∧ t.ret2 = s.ret2 ∧ t.ret3 = s.ret3

/-- What a command may leave: the RET registers change with the result Passed alone (10_state.md R26). -/
def CommandEnd (s t : State) : Prop := CommandEffect s t ∧ (t.result ≠ .passed → RetsKept s t)

section
variable {s t u : State}

theorem CommandEffect.trans (h : CommandEffect s t) (k : CommandEffect t u) : CommandEffect s u := by
  refine ⟨?_, k.confs.trans h.confs, h.events.trans k.events⟩
  have hf := h.frame
  have kf := k.frame
  unfold CommandOnly WorkOnly at *
  rw [hf] at kf
  exact kf

theorem CommandEffect.of_work (h : WorkOnly s t) : CommandEffect s t := by
  unfold WorkOnly at h
  rw [h]
  exact ⟨rfl, rfl, .refl s⟩

theorem CommandEffect.refl (s : State) : CommandEffect s s := .of_work rfl

/-- What reception or a dock writes (43_terminal.md R158, 45_gate.md R208). -/
theorem CommandEffect.of_reception (h : ReceptionOnly s t) (hconfs : t.gates.map (·.conf) = s.gates.map (·.conf))
    (hevents : EventsKept s t) : CommandEffect s t := by
  refine ⟨?_, hconfs, hevents⟩
  unfold ReceptionOnly at h
  rw [h]
  rfl

theorem CommandEffect.updateGate {id : Byte} {f : Gate → Gate} (hf : ∀ g, (f g).conf = g.conf) :
    CommandEffect s (s.updateGate id f) := ⟨rfl, updateGate_confs id f s hf, .refl s⟩

theorem CommandEffect.put (id : Byte) (s : State) : CommandEffect s (put id s).2 := by
  rw [put_frame]
  exact ⟨rfl, rfl, .refl s⟩

theorem CommandEffect.dock (P : List Chunk) (s : State) : CommandEffect s (dock P s).2 := by
  refine .of_reception ?_ (dock_confs P s) (.dock P s)
  have hframe := dock_frame P s
  unfold DockOnly at hframe
  rw [hframe]
  rfl

/-- One chunk clears no event (10_state.md R28, R36). -/
theorem EventsKept.arrive (c : Chunk) (s : State) : EventsKept s (arrive c s) := by
  rcases arrive_cases c s with ⟨_, h⟩ | ⟨_, _, h⟩ | ⟨_, _, h⟩ | ⟨_, _, _, h⟩ | ⟨_, _, h⟩ | ⟨_, _, _, h⟩ | ⟨_, _, _, h⟩ |
    ⟨_, _, _, h⟩ | ⟨_, _, _, h⟩ <;> rw [h]
  · exact .refl s
  · exact .of_or _ rfl
  · exact .refl s
  · exact .of_or _ rfl
  · exact .of_or _ rfl
  · unfold storePayload
    dsimp only
    split
    · exact .of_or _ rfl
    · exact .refl s
  · exact .refl s
  · unfold closePlane
    dsimp only
    split <;> exact .of_or _ rfl
  · exact .of_or _ rfl

theorem EventsKept.arriveAndDock (c : Chunk) (s : State) : EventsKept s (arriveAndDock c s) := by
  rcases arriveAndDock_cases c s with ⟨_, h⟩ | ⟨_, _, h⟩ <;> rw [h]
  · exact .arrive c s
  · exact (EventsKept.arrive c s).trans (.dock _ (takeArrival (Machine.arrive c s)).2)

theorem CommandEffect.arriveAndDock (c : Chunk) (s : State) : CommandEffect s (arriveAndDock c s) :=
  .of_reception (arriveAndDock_frame c s) (arriveAndDock_confs c s) (.arriveAndDock c s)

theorem CommandEffect.takeArrival (s : State) : CommandEffect s (takeArrival s).2 := ⟨rfl, rfl, .refl s⟩

/-! ### The ways a command ends -/

/-- A command that passes may write the RET registers. -/
theorem CommandEnd.passed (h : CommandEffect s t) : NextHas (CommandEnd s) (finish .passed t) :=
  .finish ⟨h.trans (.of_work rfl), fun hne => absurd rfl hne⟩

theorem CommandEnd.passed_work (h : WorkOnly s t) : NextHas (CommandEnd s) (finish .passed t) := .passed (.of_work h)

/-- A command that writes no RET register may end with any code. -/
theorem CommandEnd.finish {code : ResultCode} (h : CommandEffect s t) (hrets : RetsKept s t) :
    NextHas (CommandEnd s) (finish code t) := .finish ⟨h.trans (.of_work rfl), fun _ => hrets⟩

theorem CommandEnd.result (s : State) (code : ResultCode) : CommandEnd s { s with result := code } :=
  ⟨.of_work rfl, fun _ => ⟨rfl, rfl, rfl, rfl⟩⟩

/-- A command that fails and writes RESULT alone. -/
theorem CommandEnd.unchanged {code : ResultCode} : NextHas (CommandEnd s) (Machine.finish code s) :=
  .finish (CommandEnd.result s code)

/-- A test that ends a command with RESULT alone. -/
theorem CommandEnd.guard {p : Prop} {_ : Decidable p} {code : ResultCode} {a : Answer} (h : NextHas (CommandEnd s) a) :
    NextHas (CommandEnd s) (if p then Machine.finish code s else a) := by
  split
  · exact CommandEnd.unchanged
  · exact h

theorem RetsKept.put (id : Byte) (s : State) : RetsKept s (put id s).2 := by
  rw [put_frame]
  exact ⟨rfl, rfl, rfl, rfl⟩

theorem RetsKept.dock (P : List Chunk) (s : State) : RetsKept s (dock P s).2 := by
  have hframe := dock_frame P s
  unfold DockOnly at hframe
  rw [hframe]
  exact ⟨rfl, rfl, rfl, rfl⟩

end

section
variable (s : State)

/-! ### Chunk and scalar commands -/

theorem execChunkEncode_end : NextHas (CommandEnd s) (execChunkEncode s) := by
  unfold execChunkEncode
  split
  · exact CommandEnd.unchanged
  · exact CommandEnd.passed_work rfl

theorem execChunkDecode_end : NextHas (CommandEnd s) (execChunkDecode s) := by
  unfold execChunkDecode
  split
  · exact CommandEnd.unchanged
  · exact CommandEnd.passed_work rfl

theorem execChunkToWire_end : NextHas (CommandEnd s) (execChunkToWire s) := by
  unfold execChunkToWire
  split
  · exact CommandEnd.unchanged
  · exact CommandEnd.passed_work rfl

theorem execChunkFromWire_end : NextHas (CommandEnd s) (execChunkFromWire s) := by
  unfold execChunkFromWire
  split
  · exact CommandEnd.unchanged
  · exact CommandEnd.passed_work rfl

theorem execScalarToBytes_end : NextHas (CommandEnd s) (execScalarToBytes s) := by
  refine CommandEnd.guard ?_
  split
  · exact CommandEnd.unchanged
  · exact CommandEnd.unchanged
  · exact CommandEnd.guard (CommandEnd.passed_work rfl)

theorem scalarOut_end (t : TypeTag) (B : List Byte) : NextHas (CommandEnd s) (scalarOut t B s) :=
  CommandEnd.guard (CommandEnd.passed_work rfl)

theorem execScalarToData_end : NextHas (CommandEnd s) (execScalarToData s) := by
  refine CommandEnd.guard ?_
  split
  · exact CommandEnd.unchanged
  · exact CommandEnd.unchanged
  · exact CommandEnd.guard (.reading fun B => scalarOut_end s _ B)

theorem execScalarGetArraySize_end : NextHas (CommandEnd s) (execScalarGetArraySize s) := by
  unfold execScalarGetArraySize
  split
  · exact CommandEnd.unchanged
  · exact CommandEnd.passed_work rfl

/-! ### Packet commands -/

theorem execPktCreate_end : NextHas (CommandEnd s) (execPktCreate s) :=
  CommandEnd.guard (CommandEnd.guard (.reading fun _ => CommandEnd.guard (CommandEnd.passed_work rfl)))

theorem execPktAppend_end : NextHas (CommandEnd s) (execPktAppend s) :=
  CommandEnd.guard (CommandEnd.guard (.reading fun _ => .reading fun _ => CommandEnd.passed_work rfl))

theorem execPktSegFromBytes_end : NextHas (CommandEnd s) (execPktSegFromBytes s) :=
  CommandEnd.guard (CommandEnd.guard (.reading fun _ => CommandEnd.passed_work rfl))

theorem execPktVerifyCheckSum_end : NextHas (CommandEnd s) (execPktVerifyCheckSum s) := by
  refine .withPlane (CommandEnd.result s) fun P => ?_
  split
  · exact CommandEnd.passed_work rfl
  · exact CommandEnd.unchanged

theorem execPktGetTotalSize_end : NextHas (CommandEnd s) (execPktGetTotalSize s) :=
  .withPlane (CommandEnd.result s) fun _ => CommandEnd.passed_work rfl

theorem execPktVerifyID_end : NextHas (CommandEnd s) (execPktVerifyID s) := by
  refine CommandEnd.guard (CommandEnd.guard (.reading fun c => CommandEnd.guard ?_))
  split
  · exact CommandEnd.passed_work rfl
  · exact CommandEnd.unchanged

theorem execPktGetParamCount_end : NextHas (CommandEnd s) (execPktGetParamCount s) :=
  .withPlane (CommandEnd.result s) fun _ => CommandEnd.passed_work rfl

theorem execPktSegToBytes_end : NextHas (CommandEnd s) (execPktSegToBytes s) := by
  refine CommandEnd.guard (CommandEnd.guard (.reading fun c => CommandEnd.guard (.reading fun bytes => ?_)))
  split
  · exact CommandEnd.unchanged
  · exact CommandEnd.guard (CommandEnd.passed_work rfl)

theorem execPktFullyAnalyze_end : NextHas (CommandEnd s) (execPktFullyAnalyze s) :=
  CommandEnd.guard (.withAnalysis (CommandEnd.result s) fun _ => CommandEnd.passed_work rfl)

theorem execPktGetParameter_end : NextHas (CommandEnd s) (execPktGetParameter s) := by
  refine CommandEnd.guard (.withAnalysis (CommandEnd.result s) fun info => ?_)
  split
  · exact CommandEnd.unchanged
  · exact CommandEnd.guard (CommandEnd.passed_work rfl)

/-! ### Terminal commands -/

theorem execTermPut_end : NextHas (CommandEnd s) (execTermPut s) := CommandEnd.finish (.put _ s) (.put _ s)

theorem execTermPop_end : NextHas (CommandEnd s) (execTermPop s) := by
  unfold execTermPop
  rcases pop_cases s with ⟨_, hpop⟩ | ⟨_, _, _, hpop⟩ <;> rw [hpop]
  · exact CommandEnd.unchanged
  · exact CommandEnd.passed ⟨rfl, rfl, .refl s⟩

theorem execTermArriveChunk_end : NextHas (CommandEnd s) (execTermArriveChunk s) := by
  unfold execTermArriveChunk
  split
  · exact CommandEnd.unchanged
  · exact CommandEnd.passed ((CommandEffect.arriveAndDock _ s).trans (.of_work rfl))

theorem execTermTakeArrival_end : NextHas (CommandEnd s) (execTermTakeArrival s) :=
  CommandEnd.guard (CommandEnd.guard (CommandEnd.guard
    (CommandEnd.passed ((CommandEffect.takeArrival s).trans (.of_work rfl)))))

theorem execTermReset_end : NextHas (CommandEnd s) (execTermReset s) := CommandEnd.passed ⟨rfl, rfl, .refl s⟩

/-! ### Gate commands -/

theorem requestWith_end (g : Gate) (L : List (List Byte)) : NextHas (CommandEnd s) (requestWith g L s) := by
  refine CommandEnd.guard ?_
  split
  · exact CommandEnd.unchanged
  · next P _ =>
    have hput := CommandEffect.put g.conf.gateID s
    have hrets := RetsKept.put g.conf.gateID s
    split
    · next heq =>
      rw [heq] at hput
      have hrequested := hput.trans (.updateGate (id := g.conf.gateID) (f := Gate.requested P) fun _ => rfl)
      exact CommandEnd.passed (hrequested.trans (.of_work rfl))
    · next heq =>
      rw [heq] at hput hrets
      exact CommandEnd.finish hput hrets

theorem execGateRequest_end : NextHas (CommandEnd s) (execGateRequest s) := by
  refine CommandEnd.guard ?_
  split
  · exact CommandEnd.unchanged
  · refine CommandEnd.guard (.reading fun parsed => ?_)
    split
    · exact CommandEnd.unchanged
    · exact requestWith_end s _ _

theorem execGateRead_end : NextHas (CommandEnd s) (execGateRead s) := by
  refine CommandEnd.guard ?_
  split
  · exact CommandEnd.unchanged
  · next g _ =>
    have hcleaned : CommandEffect s (s.updateGate g.conf.gateID fun g => { g with status := .cleaned }) :=
      .updateGate fun _ => rfl
    exact CommandEnd.guard (CommandEnd.guard (CommandEnd.passed (hcleaned.trans (.of_work rfl))))

theorem execGateStatus_end : NextHas (CommandEnd s) (execGateStatus s) := by
  unfold execGateStatus
  split
  · exact CommandEnd.unchanged
  · exact CommandEnd.passed_work rfl

theorem execGateDock_end : NextHas (CommandEnd s) (execGateDock s) :=
  .withPlane (CommandEnd.result s) fun P => CommandEnd.finish (.dock P s) (.dock P s)

end

/-- Every command, whatever its operands and however it ends (46_system.md R227). -/
theorem exec_end (i : Instr) (s : State) : NextHas (CommandEnd s) (exec i s) :=
  match i with
  | .nop => CommandEnd.passed_work rfl
  | .chunkEncode => execChunkEncode_end s
  | .chunkDecode => execChunkDecode_end s
  | .chunkToWire => execChunkToWire_end s
  | .chunkFromWire => execChunkFromWire_end s
  | .scalarToBytes => execScalarToBytes_end s
  | .scalarToData => execScalarToData_end s
  | .scalarGetArraySize => execScalarGetArraySize_end s
  | .pktCreate => execPktCreate_end s
  | .pktAppend => execPktAppend_end s
  | .pktSegFromBytes => execPktSegFromBytes_end s
  | .pktVerifyCheckSum => execPktVerifyCheckSum_end s
  | .pktGetTotalSize => execPktGetTotalSize_end s
  | .pktVerifyID => execPktVerifyID_end s
  | .pktGetParamCount => execPktGetParamCount_end s
  | .pktSegToBytes => execPktSegToBytes_end s
  | .pktFullyAnalyze => execPktFullyAnalyze_end s
  | .pktGetParameter => execPktGetParameter_end s
  | .termPut => execTermPut_end s
  | .termIsOnTaxiway => CommandEnd.passed_work rfl
  | .termPop => execTermPop_end s
  | .termArriveChunk => execTermArriveChunk_end s
  | .termTakeArrival => execTermTakeArrival_end s
  | .termArrivalInfo => CommandEnd.passed_work rfl
  | .termReset => execTermReset_end s
  | .gateRequest => execGateRequest_end s
  | .gateRead => execGateRead_end s
  | .gateStatus => execGateStatus_end s
  | .gateDock => execGateDock_end s

/-- Settles O57: `exec_end`, read field by field. -/
theorem whatNoCommandWrites : Obligations.WhatNoCommandWrites := by
  intro i s t hexec
  obtain ⟨⟨hframe, hconfs, hevents⟩, hrets⟩ := exec_end i s t hexec
  unfold CommandOnly WorkOnly at hframe
  have hparams : t.params = s.params := by rw [hframe]
  have hconfig : t.config = s.config := by rw [State.config, State.config, hparams, hconfs]
  refine ⟨hconfig, ?_⟩
  rw [hframe]
  exact ⟨rfl, rfl, rfl, rfl, rfl, rfl, rfl, rfl, rfl, rfl, rfl, rfl, rfl, rfl, rfl, rfl, rfl, rfl, rfl, rfl, rfl, rfl,
    hevents, hrets⟩

end Sys2Proof.Machine
end

section
/-! PROOF of O17: a command that scans PWM for a plane ends as the scan does where there is none. `EndsAsScan` says so of
an answer; it is proved once for the commands over a plane and once for those over an analyzed plane. -/

namespace Sys2Proof.Machine

section
variable {s : State}

/-- The answer of a command that scans the range of ARG0 and finds no plane there (42_packet.md R118, 20_memory.md R67,
R69). -/
structure EndsAsScan (s : State) (a : Answer) : Prop where
  badRange : ¬ InRange s.arg0 s.params.pwmSize → a = .next { s with result := .failed }
  noPlane : ∀ code, ScanFails s s.arg0 code → a = .next { s with result := code }
  unwritten : ScanMeetsUnwritten s s.arg0 → a = .fault .uninitRead

theorem EndsAsScan.withPlane (go : List Chunk → Answer) : EndsAsScan s (withPlane s go) where
  badRange := withPlane_of_not_inRange go
  noPlane _ := withPlane_of_scanFails go
  unwritten := withPlane_of_scanMeetsUnwritten go

/-- `analyze` ends with the code of the scan when there is no plane (R120). -/
theorem withAnalysis_of_scanFails {code : ResultCode} (go : PlaneInfo → Answer) (h : ScanFails s s.arg0 code) :
    withAnalysis s go = finish code s := by
  simp only [withAnalysis, argRange_addr, argRange_len, analyzeCells, totalSize_of_scanFails h, reading]

/-- `analyze` is UNINIT_READ where its scan meets an unwritten cell (R67, R120). -/
theorem withAnalysis_of_scanMeetsUnwritten (go : PlaneInfo → Answer) (h : ScanMeetsUnwritten s s.arg0) :
    withAnalysis s go = .fault .uninitRead := by
  simp only [withAnalysis, argRange_addr, argRange_len, analyzeCells, totalSize_of_scanMeetsUnwritten h, reading]

/-- A command over an analyzed plane, whose other range tests pass. -/
theorem EndsAsScan.withAnalysis {p : Prop} {_ : Decidable p} (go : PlaneInfo → Answer)
    (hp : p ↔ ¬ InRange s.arg0 s.params.pwmSize) :
    EndsAsScan s (if p then finish .failed s else withAnalysis s go) where
  badRange hbad := if_pos (hp.mpr hbad)
  noPlane _ h := (if_neg fun hbad => hp.mp hbad h.1).trans (withAnalysis_of_scanFails go h)
  unwritten h := (if_neg fun hbad => hp.mp hbad h.1).trans (withAnalysis_of_scanMeetsUnwritten go h)

end

/-- Settles O17: each of the six commands scans by `withPlane` or by `withAnalysis`. -/
theorem scanFailures : Obligations.ScanFailures := by
  intro s i hi
  suffices h : EndsAsScan s (exec i s) from ⟨h.badRange, h.noPlane, h.unwritten⟩
  rcases hi with rfl | rfl | rfl | rfl | ⟨rfl, hdst⟩ | rfl
  · exact .withPlane _
  · exact .withPlane _
  · exact .withPlane _
  · exact .withAnalysis _ (fits_eq_false_iff _ _)
  · refine .withAnalysis _ ?_
    rw [fits_eq_false_iff, fits_eq_false_iff]
    simp only [hdst, not_true_eq_false, or_false]
  · exact .withPlane _

end Sys2Proof.Machine
end

section
/-! PROOF of O19: PKT_SEGTOBYTES. The cells after the Div are read one by one, so Byte chunks are read before what follows
them (`segmentBytes_append`): a cell that is no Byte chunk, an unwritten one, or the end of the range. -/

namespace Sys2Proof.Machine

/-! ### Cells read one after the other -/

section
variable {w : Nat} {m : Memory w} {a n : Nat} {vs : List (BitVec w)}

/-- A range that begins with held values goes on with the cells behind them. -/
theorem cells_eq_append_of_holds (h : Holds m a vs) (hle : vs.length ≤ n) :
    m.cells a n = vs.map some ++ m.cells (a + vs.length) (n - vs.length) := by
  rw [← cells_of_holds m a vs h, ← Memory.cells_add, Nat.add_sub_cancel' hle]

/-- The first cell of a range that is not empty. -/
theorem Memory.cells_of_pos (m : Memory w) (a : Nat) (hpos : 0 < n) : ∃ rest, m.cells a n = m.read a :: rest := by
  obtain ⟨k, rfl⟩ : ∃ k, n = 1 + k := ⟨n - 1, by omega⟩
  exact ⟨m.cells (a + 1) k, by rw [Memory.cells_add]; rfl⟩

end

/-! ### Storing bytes in a range of BWM -/

/-- How a command ends that stores bytes in the range of an operand: with their number in RET0, or Failed where the range
is too small (R129, R131). -/
def storeIfFits (v : Word) (B : List Byte) (s : State) : Answer :=
  if B.length > (argRange v).len then finish .failed s else finish .passed (storeBwm (argRange v).addr B s)

theorem storeIfFits_cases {s : State} {v : Word} {B : List Byte} {a : Answer} (ha : a = storeIfFits v B s) :
    (rangeLen v < B.length → a = .next { s with result := .failed }) ∧
    (B.length ≤ rangeLen v →
      ∃ m, a = .next { s with result := .passed, bwm := m, ret0 := BitVec.ofNat 32 B.length } ∧
        Stored s.bwm m (rangeAddr v) B) := by
  rw [storeIfFits, argRange_len, argRange_addr] at ha
  refine ⟨fun hlt => ha.trans (if_pos hlt), fun hle => ⟨s.bwm.writeRange (rangeAddr v) B, ?_, stored_writeRange _ _ _⟩⟩
  exact ha.trans (if_neg (Nat.not_lt.mpr hle))

/-! ### The bytes of a segment -/

theorem ofNat_byte_eq_encodeChunk (b : Byte) : BitVec.ofNat 16 b.toNat = encodeChunk b .byte := by
  simp [encodeChunk, ChunkType.index]

/-- A Byte chunk is read before what follows it (R129). -/
theorem segmentBytes_cons_byte (b : Byte) (rest : List (Option Chunk)) :
    segmentBytes (some (BitVec.ofNat 16 b.toNat) :: rest) = (segmentBytes rest).map (Except.map (b :: ·)) := by
  rw [ofNat_byte_eq_encodeChunk, segmentBytes, if_neg (not_not.mpr (typeOf_encodeChunk b .byte)), byteOf_encodeChunk]
  rcases segmentBytes rest with _ | _ | _ <;> rfl

/-- Byte chunks are read before what follows them. -/
theorem segmentBytes_append (B : List Byte) (rest : List (Option Chunk)) :
    segmentBytes ((B.map fun b => BitVec.ofNat 16 b.toNat).map some ++ rest) =
      (segmentBytes rest).map (Except.map (B ++ ·)) := by
  induction B with
  | nil =>
    rw [List.map_nil, List.map_nil, List.nil_append]
    rcases segmentBytes rest with _ | _ | _ <;> rfl
  | cons b B ih =>
    rw [List.map_cons, List.map_cons, List.cons_append, segmentBytes_cons_byte, ih]
    rcases segmentBytes rest with _ | _ | _ <;> rfl

section
variable {s : State}

/-- PKT_SEGTOBYTES fails on a bad range and on an empty source (R69, R129). -/
theorem execPktSegToBytes_of_badRange
    (h : ¬ InRange s.arg0 s.params.pwmSize ∨ ¬ InRange s.arg1 s.params.bwmSize ∨ rangeLen s.arg0 = 0) :
    execPktSegToBytes s = finish .failed s := by
  unfold execPktSegToBytes
  dsimp only
  split
  · rfl
  · next hin =>
    rw [fits_eq_false_iff, fits_eq_false_iff] at hin
    exact if_pos (by rw [argRange_len]; tauto)

/-- How PKT_SEGTOBYTES ends once its segment is read (R129): with the code of the reading, or by storing the bytes. -/
def storeSegment (s : State) : Except ResultCode (List Byte) → Answer
  | .error r => finish r s
  | .ok B => storeIfFits s.arg1 B s

/-- PKT_SEGTOBYTES over good ranges reads the first cell, and the cells after it where that is a Div (R129). -/
theorem execPktSegToBytes_of_inRange (hsrc : InRange s.arg0 s.params.pwmSize)
    (hdst : InRange s.arg1 s.params.bwmSize) (hlen : 0 < rangeLen s.arg0) :
    execPktSegToBytes s = reading (s.pwm.read (rangeAddr s.arg0)) fun c =>
      if c.toNat / 256 ≠ 1 then finish .failed s
      else reading (segmentBytes (s.pwm.cells (rangeAddr s.arg0 + 1) (rangeLen s.arg0 - 1))) (storeSegment s) := by
  unfold execPktSegToBytes
  simp only [fits_eq_false_iff, argRange_len s.arg0, argRange_addr s.arg0, hsrc, hdst, not_true_eq_false, or_self,
    if_false, Nat.ne_of_gt hlen, ne_eq, typeOf_div_iff]
  congr! 4

end

/-- Settles O19: the tests before the segment is read, and then its three ways to end by `segmentBytes_append`. -/
theorem pktSegToBytes : Obligations.PktSegToBytes := by
  intro s
  show (_ → execPktSegToBytes s = _) ∧ _
  refine ⟨execPktSegToBytes_of_badRange, fun hsrc hdst hlen hread => ?_, fun hsrc hdst hlen c hread => ?_⟩
  · exact (execPktSegToBytes_of_inRange hsrc hdst hlen).trans (by rw [hread]; rfl)
  have hexec := execPktSegToBytes_of_inRange hsrc hdst hlen
  rw [hread] at hexec
  refine ⟨fun hdiv => hexec.trans (if_pos hdiv), fun hdiv B bad hlt hbad hheld => ?_, fun hdiv B hlt hheld hnone => ?_,
    fun hdiv B hB hheld => ?_⟩
  all_goals replace hexec := hexec.trans (if_neg (not_not.mpr hdiv))
  · have hstop : typeOf bad ≠ some .byte := by rw [Ne, typeOf_byte_iff]; omega
    rw [cells_eq_append_of_holds hheld (by simp; omega), List.map_append, List.append_assoc, segmentBytes_append] at hexec
    simp only [List.map_cons, List.cons_append, segmentBytes, if_pos hstop] at hexec
    exact hexec
  · obtain ⟨rest, hcells⟩ := s.pwm.cells_of_pos (n := rangeLen s.arg0 - 1 - B.length) (rangeAddr s.arg0 + 1 + B.length)
      (by omega)
    rw [cells_eq_append_of_holds hheld (by simp; omega), List.length_map, hcells, hnone, segmentBytes_append] at hexec
    exact hexec
  · rw [cells_eq_append_of_holds hheld (by simp; omega), List.length_map, show rangeLen s.arg0 - 1 - B.length = 0 by omega,
      segmentBytes_append] at hexec
    refine storeIfFits_cases (hexec.trans ?_)
    simp [Memory.cells, segmentBytes, reading, Except.map, storeSegment]

end Sys2Proof.Machine
end

section
/-! PROOF of O21: the parameter of an index. The checks of `analyze` and the split of a plane at its Div chunks are said in
the words of Safety.lean, for any plane. -/

namespace Sys2Proof.Machine

/-! ### The checks of a plane (42_packet.md R119, R120) -/

section
variable {first last : Chunk} {mid : List Chunk}

/-- The Check of a plane is right when it holds the sum of the payloads between (R117, R120). -/
theorem cks_eq_check_iff :
    cks (inner (first :: (mid ++ [last]))) = byteOf ((first :: (mid ++ [last])).getLastD 0) ↔
      sum8 mid = last.toNat % 256 := by
  rw [inner_plane, ← cks_toNat, ← byteOf_toNat, BitVec.toNat_inj, ← List.cons_append, List.getLastD_concat]

theorem planeID_cons (P : List Chunk) : planeID (first :: P) = BitVec.ofNat 8 first.toNat := by
  apply BitVec.eq_of_toNat_eq
  rw [planeID, List.headD_cons, byteOf_toNat, BitVec.toNat_ofNat]

/-- The structure of a plane is bad when a Start chunk stands inside, or its first chunk inside is a Byte chunk (R119). -/
theorem structureOK_eq_false_iff (hmid : ∀ c ∈ mid, c.toNat < 768) :
    structureOK (first :: (mid ++ [last])) = false ↔
      (∃ c ∈ mid, 512 ≤ c.toNat) ∨ mid.head?.any (fun c => c.toNat < 256) = true := by
  have hkind : (∃ c ∈ mid, ¬ (c.toNat / 256 = 0 ∨ c.toNat / 256 = 1)) ↔ ∃ c ∈ mid, 512 ≤ c.toNat :=
    exists_congr fun c => and_congr_right fun hc => by have := hmid c hc; omega
  rw [structureOK, inner_plane, Bool.and_eq_false_iff, List.all_eq_false]
  simp only [decide_eq_true_eq, typeOf_byte_iff, typeOf_div_iff, hkind]
  cases mid with
  | nil => simp
  | cons c mid =>
    have hhead : ¬ c.toNat / 256 = 1 ↔ 512 ≤ c.toNat ∨ c.toNat < 256 := by omega
    simp only [List.head?_cons, Option.all_some, decide_eq_false_iff_not, hhead, Option.any_some, decide_eq_true_eq,
      List.exists_mem_cons_iff]
    exact ⟨by rintro (h | h | h) <;> simp [h], by rintro (h | h) <;> simp [h]⟩

/-- The checks of `analyze` in their order, on a plane the scan finds (R120). -/
theorem checkPlane_eq (supported : List Byte) (hmid : ∀ c ∈ mid, c.toNat < 768) :
    checkPlane supported (first :: (mid ++ [last])) =
      if sum8 mid ≠ last.toNat % 256 then .error .failed
      else if BitVec.ofNat 8 first.toNat ∉ supported then .error .incompatibility
      else if (∃ c ∈ mid, 512 ≤ c.toNat) ∨ mid.head?.any (fun c => c.toNat < 256) = true then .error .crashed
      else .ok ⟨first :: (mid ++ [last]), paramCount (first :: (mid ++ [last])), BitVec.ofNat 8 first.toNat⟩ := by
  simp only [checkPlane, ne_eq, cks_eq_check_iff, planeID_cons, structureOK_eq_false_iff hmid, List.contains_eq_mem,
    decide_eq_false_iff_not]

end

/-! ### The parameters of a plane (42_packet.md R121) -/

theorem splitAtDivs_bytes (B : List Byte) (rest : List Chunk) :
    splitAtDivs (B.map (fun b => BitVec.ofNat 16 b.toNat) ++ rest) =
      (B ++ (splitAtDivs rest).1, (splitAtDivs rest).2) := by
  induction B with
  | nil => rfl
  | cons b B ih =>
    have hbyte : typeOf (encodeChunk b .byte) ≠ some .div := by rw [typeOf_encodeChunk]; decide
    rw [List.map_cons, List.cons_append, ofNat_byte_eq_encodeChunk, splitAtDivs, if_neg hbyte, ih, byteOf_encodeChunk]
    rfl

/-- Chunks made of segments split into the parameters of the segments. -/
theorem splitAtDivs_segments (segments : List (Byte × List Byte)) :
    splitAtDivs (segments.flatMap fun p => segmentOf p.1 p.2) = ([], segments.map (·.2)) := by
  induction segments with
  | nil => rfl
  | cons p segments ih =>
    have hdiv : typeOf (BitVec.ofNat 16 (256 + p.1.toNat)) = some .div := typeOf_encodeChunk p.1 .div
    rw [List.flatMap_cons, segmentOf, List.cons_append, splitAtDivs, if_pos hdiv, splitAtDivs_bytes, ih, List.append_nil]
    rfl

theorem planeParams_of_segments (first last : Chunk) (segments : List (Byte × List Byte)) :
    planeParams (first :: ((segments.flatMap fun p => segmentOf p.1 p.2) ++ [last])) = segments.map (·.2) := by
  rw [planeParams, inner_plane, splitAtDivs_segments]

theorem toNat_lt_of_mem_segmentOf {div : Byte} {B : List Byte} {c : Chunk} (hc : c ∈ segmentOf div B) : c.toNat < 512 := by
  have := div.isLt
  rw [segmentOf_eq_paramSegment] at hc
  rcases List.mem_cons.mp hc with rfl | hc
  · rw [encodeChunk_toNat, ChunkType.index]; omega
  · obtain ⟨b, _, rfl⟩ := List.mem_map.mp hc
    have := b.isLt
    rw [encodeChunk_toNat, ChunkType.index]; omega

/-- A plane made of segments has a good structure (30_encoding.md R97). -/
theorem structure_of_segments (segments : List (Byte × List Byte)) :
    ¬ ((∃ c ∈ segments.flatMap fun p => segmentOf p.1 p.2, 512 ≤ c.toNat) ∨
      (segments.flatMap fun p => segmentOf p.1 p.2).head?.any (fun c => c.toNat < 256) = true) := by
  rintro (⟨c, hc, hle⟩ | hhead)
  · obtain ⟨p, _, hc⟩ := List.mem_flatMap.mp hc
    exact absurd (toNat_lt_of_mem_segmentOf hc) (Nat.not_lt.mpr hle)
  · cases segments with
    | nil => exact Bool.false_ne_true hhead
    | cons p segments =>
      have := p.1.isLt
      simp only [List.flatMap_cons, segmentOf, List.cons_append, List.head?_cons, Option.any_some, decide_eq_true_eq,
        BitVec.toNat_ofNat] at hhead
      omega

/-! ### PKT_GETPARAMETER -/

/-- How PKT_GETPARAMETER ends on a plane that passes the checks: with the parameter of the index, if there is one (R131). -/
def storeParameter (s : State) : Option (List Byte) → Answer
  | none => finish .failed s
  | some B => storeIfFits s.arg2 B s

/-- PKT_GETPARAMETER fails on a bad range (R69, R131). -/
theorem execPktGetParameter_of_badRange {s : State}
    (h : ¬ InRange s.arg0 s.params.pwmSize ∨ ¬ InRange s.arg2 s.params.bwmSize) :
    execPktGetParameter s = finish .failed s :=
  if_pos (by rw [fits_eq_false_iff, fits_eq_false_iff]; exact h)

/-- PKT_GETPARAMETER over a plane the scan finds ends as its checks do, or looks its parameter up (R120, R131). -/
theorem execPktGetParameter_of_scansAs {s : State} {first : Chunk} {mid : List Chunk} {last : Chunk}
    (hdst : InRange s.arg2 s.params.bwmSize) (h : ScansAs s s.arg0 first mid last) :
    execPktGetParameter s =
      if sum8 mid ≠ last.toNat % 256 then finish .failed s
      else if BitVec.ofNat 8 first.toNat ∉ s.params.supported then finish .incompatibility s
      else if (∃ c ∈ mid, 512 ≤ c.toNat) ∨ mid.head?.any (fun c => c.toNat < 256) = true then finish .crashed s
      else storeParameter s (planeParams (first :: (mid ++ [last])))[s.arg1.toNat]? := by
  have hmid : ∀ c ∈ mid, c.toNat < 768 := h.2.2.2.1
  unfold execPktGetParameter
  dsimp only
  rw [if_neg (by rw [fits_eq_false_iff, fits_eq_false_iff]; simp [h.1, hdst])]
  unfold withAnalysis
  dsimp only
  rw [argRange_addr s.arg0, argRange_len s.arg0, analyzeCells_of_scansAs _ h, checkPlane_eq _ hmid]
  split_ifs
  · rfl
  · rfl
  · rfl
  · rfl

/-- Settles O21: `execPktGetParameter_of_scansAs`, branch by branch, with the parameters of a plane made of segments. -/
theorem pktGetParameter : Obligations.PktGetParameter := by
  intro s
  show (_ → execPktGetParameter s = _) ∧ _
  refine ⟨execPktGetParameter_of_badRange, fun hdst first mid last hplane => ?_⟩
  have hexec := execPktGetParameter_of_scansAs hdst hplane
  refine ⟨fun hsum => hexec.trans (if_pos hsum), fun hsum hid => ?_, fun hsum hid => ⟨fun hbad => ?_, ?_⟩⟩
  all_goals replace hexec := hexec.trans (if_neg (not_not.mpr hsum))
  · exact hexec.trans (if_pos hid)
  · exact (hexec.trans (if_neg (not_not.mpr hid))).trans (if_pos hbad)
  · rintro segments rfl
    replace hexec := (hexec.trans (if_neg (not_not.mpr hid))).trans (if_neg (structure_of_segments segments))
    rw [planeParams_of_segments, List.getElem?_map] at hexec
    refine ⟨fun hindex => ?_, fun div B hfound => storeIfFits_cases ?_⟩
    · rw [List.getElem?_eq_none hindex] at hexec
      exact hexec
    · rw [hfound] at hexec
      exact hexec

end Sys2Proof.Machine
end

section
/-! PROOF of O36: the refusals of GATE_REQUEST. The records are parsed one by one, so what stands behind some records is
parsed as if it stood alone (`parseRecords_append`); a record that is cut off then fails, and nothing behind them ends the
list. -/

namespace Sys2Proof.Machine

/-! ### Parameter records (45_gate.md R193, R194) -/

theorem allWritten_map_some {α : Type} (vs : List α) : allWritten (vs.map some) = some vs := allWritten_eq_some.mpr rfl

/-- One record is parsed before what follows it. -/
theorem parseRecords_cons {B : List Byte} (hB : B.length ≤ 255) (fuel : Nat) (rest : List (Option Byte)) :
    parseRecords (fuel + 1) ((BitVec.ofNat 8 B.length :: B).map some ++ rest) =
      (parseRecords fuel rest).map (Option.map (B :: ·)) := by
  have hlen : (BitVec.ofNat 8 B.length).toNat = (B.map some).length := by
    rw [BitVec.toNat_ofNat, List.length_map]; omega
  rw [List.map_cons, List.cons_append, parseRecords, if_neg (by rw [hlen, List.length_append]; omega), hlen,
    List.take_left, List.drop_left, allWritten_map_some]
  rcases parseRecords fuel rest with _ | _ | _ <;> rfl

/-- Some records are parsed before what follows them. -/
theorem parseRecords_append {L : List (List Byte)} (hL : ∀ B ∈ L, B.length ≤ 255) (fuel : Nat)
    (rest : List (Option Byte)) :
    parseRecords (L.length + fuel) ((recordBytes L).map some ++ rest) =
      (parseRecords fuel rest).map (Option.map (L ++ ·)) := by
  induction L with
  | nil =>
    rw [List.length_nil, Nat.zero_add]
    rcases h : parseRecords fuel rest with _ | _ | _ <;> exact h
  | cons B L ih =>
    rw [List.forall_mem_cons] at hL
    rw [recordBytes, List.flatMap_cons, List.map_append, List.append_assoc, List.length_cons,
      show L.length + 1 + fuel = L.length + fuel + 1 by omega, parseRecords_cons hL.1]
    rw [← recordBytes, ih hL.2]
    rcases parseRecords fuel rest with _ | _ | _ <;> rfl

/-- Each record takes at least one cell, so the number of cells is enough fuel. -/
theorem length_le_recordBytes (L : List (List Byte)) : L.length ≤ (recordBytes L).length := by
  induction L with
  | nil => exact Nat.le_refl 0
  | cons B L ih => rw [recordBytes, List.flatMap_cons, ← recordBytes]; simp; omega

section
variable {s : State} {v : Word} {L : List (List Byte)}

/-- A range that holds exactly some records parses as them (R194). -/
theorem parseRecords_of_recordsAt (h : RecordsAt s v L) :
    parseRecords (rangeLen v) (s.bwm.cells (rangeAddr v) (rangeLen v)) = some (some L) := by
  obtain ⟨_, hL, hlen, hheld⟩ := h
  obtain ⟨fuel, hfuel⟩ := Nat.exists_eq_add_of_le (length_le_recordBytes L)
  have hparse := parseRecords_append hL fuel []
  rw [hlen, cells_of_holds _ _ _ hheld]
  rw [List.append_nil, ← hfuel] at hparse
  rw [hparse]
  simp [parseRecords]

/-- A range that ends inside a record does not parse (R194). -/
theorem parseRecords_of_cutOff {k : Byte} (hL : ∀ B ∈ L, B.length ≤ 255)
    (hheld : Holds s.bwm (rangeAddr v) (recordBytes L ++ [k])) (hlt : (recordBytes L).length < rangeLen v)
    (hcut : rangeLen v < (recordBytes L).length + 1 + k.toNat) :
    parseRecords (rangeLen v) (s.bwm.cells (rangeAddr v) (rangeLen v)) = some none := by
  have hle := length_le_recordBytes L
  obtain ⟨fuel, hfuel⟩ : ∃ fuel, rangeLen v = L.length + (fuel + 1) := ⟨rangeLen v - L.length - 1, by omega⟩
  rw [cells_eq_append_of_holds hheld (by simp; omega), List.map_append, List.append_assoc, hfuel, parseRecords_append hL,
    List.map_singleton, List.singleton_append, parseRecords, if_pos (by simp; omega)]
  rfl

end

/-! ### GATE_REQUEST (45_gate.md R201) -/

section
variable {s t : State} {g : Gate} {L : List (List Byte)}

/-- A plane of the wrong kinds or too long for its gate is refused (R195, R202). -/
theorem requestWith_of_unfit (h : ¬ ParamsOK L g.conf.departTypes ∨
    g.conf.maxSizeOfPlane < (planeWith g.conf.gateID s.params.divPayload L).length) :
    requestWith g L s = finish .failed s := by
  unfold requestWith
  split
  · rfl
  · next htypes =>
    rw [Bool.not_eq_false, typesOK_iff] at htypes
    rw [build_eq, if_neg (Nat.not_le.mpr (h.resolve_left (not_not.mpr htypes)))]

/-- A good plane is refused where the taxiway refuses its gate (R203). -/
theorem requestWith_of_put_failed (htypes : ParamsOK L g.conf.departTypes)
    (hsize : (planeWith g.conf.gateID s.params.divPayload L).length ≤ g.conf.maxSizeOfPlane)
    (hput : put g.conf.gateID s = (.failed, t)) : requestWith g L s = finish .failed t := by
  rw [requestWith, if_neg (by rw [Bool.not_eq_false, typesOK_iff]; exact htypes), build_eq, if_pos hsize, hput]

/-- GATE_REQUEST of a gate over a good range: the gate must be free, and then the records are parsed. -/
theorem execGateRequest_of_mem (hd : DistinctGates s) (hg : g ∈ s.gates) (hv : s.arg0.toNat = g.conf.gateID.toNat)
    (hin : InRange s.arg1 s.params.bwmSize) :
    (s.params.role = .slave ∨ g.conf.gateID = 8 ∨ g.status ≠ .cleaned → execGateRequest s = finish .failed s) ∧
    (s.params.role = .master → g.conf.gateID ≠ 8 → g.status = .cleaned →
      (parseRecords (rangeLen s.arg1) (s.bwm.cells (rangeAddr s.arg1) (rangeLen s.arg1)) = some none →
        execGateRequest s = finish .failed s) ∧
      (∀ L, parseRecords (rangeLen s.arg1) (s.bwm.cells (rangeAddr s.arg1) (rangeLen s.arg1)) = some (some L) →
        execGateRequest s = requestWith g L s)) := by
  have h8 : s.arg0 = 8 ↔ g.conf.gateID = 8 := by rw [← BitVec.toNat_inj, ← BitVec.toNat_inj, hv]; rfl
  unfold execGateRequest
  dsimp only
  rw [if_neg (by rw [fits_eq_false_iff]; exact not_not.mpr hin), gateOfWord?_of_mem hd hg hv]
  dsimp only
  rw [argRange_len, argRange_addr]
  refine ⟨fun hbusy => if_pos (by rwa [h8]), fun hmaster hid hcleaned => ?_⟩
  rw [if_neg (by rw [h8, hmaster]; exact not_or.mpr ⟨nofun, not_or.mpr ⟨hid, not_not.mpr hcleaned⟩⟩)]
  exact ⟨fun hparse => by rw [hparse]; rfl, fun L hparse => by rw [hparse]; rfl⟩

end

/-- Settles O36: the grounds in the order of R201. -/
theorem gateRequestRefused : Obligations.GateRequestRefused := by
  intro s
  show (_ → execGateRequest s = _) ∧ _
  refine ⟨fun hbad => ?_, fun hin hnone => ?_, fun g hd hg hv hin => ?_⟩
  · exact if_pos ((fits_eq_false_iff _ _).mpr hbad)
  · show execGateRequest s = finish .incompatibility s
    rw [execGateRequest, if_neg (by rw [fits_eq_false_iff]; exact not_not.mpr hin), gateOfWord?_of_namesNoGate hnone]
  obtain ⟨hbusy, hfree⟩ := execGateRequest_of_mem hd hg hv hin
  refine ⟨hbusy, fun hmaster hid hcleaned => ?_⟩
  obtain ⟨hunparsed, hparsed⟩ := hfree hmaster hid hcleaned
  refine ⟨fun L k hL hheld hlt hcut => hunparsed (parseRecords_of_cutOff hL hheld hlt hcut), fun L hrecords => ?_⟩
  have hexec := hparsed L (parseRecords_of_recordsAt hrecords)
  refine ⟨fun hunfit => hexec.trans (requestWith_of_unfit hunfit), fun htypes hsize => ?_⟩
  rcases put_cases g.conf.gateID s with ⟨hon, hput⟩ | ⟨hoff, _, hput⟩ | ⟨hoff, hroom, _⟩
  · exact ⟨fun _ => hexec.trans (requestWith_of_put_failed htypes hsize hput), fun hoff => absurd hon hoff⟩
  · exact ⟨fun hon => absurd hon hoff, fun _ _ => hexec.trans (requestWith_of_put_failed htypes hsize hput)⟩
  · exact ⟨fun hon => absurd hon hoff, fun _ hfull => absurd hfull hroom⟩

end Sys2Proof.Machine
end

section
/-! PROOF of O46: what a tick appends to `txQueue`. Only the transmission phase appends to it, one chunk at most; and a tick
with nothing to receive and nothing to send is the gate updates alone. -/

namespace Sys2Proof.Machine

/-! ### What a phase appends to `txQueue` -/

/-- `t` has the bytes of `s` to be sent, and behind them those of one chunk at most. -/
def SendsAtMostChunk (s t : State) : Prop := ∃ bytes, t.txQueue = s.txQueue ++ bytes ∧ bytes.length ≤ 2

theorem SendsAtMostChunk.of_eq {s t : State} (h : t.txQueue = s.txQueue) : SendsAtMostChunk s t :=
  ⟨[], by rw [h, List.append_nil], Nat.zero_le 2⟩

@[simp] theorem updateGates_txQueue (s : State) : (updateGates s).txQueue = s.txQueue := by rw [updateGates_frame]

@[simp] theorem arriveAndDock_txQueue (c : Chunk) (s : State) : (arriveAndDock c s).txQueue = s.txQueue := by
  have hframe := arriveAndDock_frame c s
  unfold ReceptionOnly at hframe
  rw [hframe]

@[simp] theorem rxByteToChunk_txQueue (s : State) (b : Byte) : (rxByteToChunk s b).txQueue = s.txQueue := by
  rcases rxByteToChunk_cases s b with ⟨_, h⟩ | ⟨_, _, h⟩ | ⟨_, _, h⟩ <;> simp [h]

@[simp] theorem foldl_rxByteToChunk_txQueue (bs : List Byte) (s : State) :
    (bs.foldl rxByteToChunk s).txQueue = s.txQueue := by
  induction bs generalizing s with
  | nil => rfl
  | cons b bs ih => rw [List.foldl_cons, ih, rxByteToChunk_txQueue]

/-- The receive phase sends nothing (R174). -/
@[simp] theorem rxPhase_txQueue (s : State) : (rxPhase s).txQueue = s.txQueue := foldl_rxByteToChunk_txQueue _ _

@[simp] theorem updateOwner_txQueue (f : Gate → Gate) (s : State) : (updateOwner f s).txQueue = s.txQueue := by
  rw [updateOwner_frame]

/-- Sending sends the two bytes of a chunk, or nothing (R179). -/
theorem sendChunk_txQueue (s : State) : SendsAtMostChunk s (sendChunk s) := by
  unfold sendChunk
  split
  · exact .of_eq rfl
  · next c _ =>
    refine ⟨[(toWire c).1, (toWire c).2], ?_, Nat.le_refl 2⟩
    dsimp only
    split <;> simp

theorem sendIfSending_txQueue (s : State) : SendsAtMostChunk s (sendIfSending s) := by
  unfold sendIfSending
  split
  · exact sendChunk_txQueue s
  · exact .of_eq rfl

@[simp] theorem reject_txQueue (o : TxOwner) (s : State) : (reject o s).txQueue = s.txQueue := by cases o <;> rfl

@[simp] theorem loadPlane_txQueue (o : TxOwner) (id : Byte) (P : List Chunk) (max : Nat) (s : State) :
    (loadPlane o id P max s).txQueue = s.txQueue := by
  unfold loadPlane
  split
  · exact reject_txQueue o s
  · rfl

/-- A plane is loaded or rejected without a byte sent (R180). -/
@[simp] theorem startPlane_txQueue (id : Byte) (s : State) : (startPlane id s).txQueue = s.txQueue := by
  unfold startPlane
  repeat' split
  all_goals simp only [reject_txQueue, loadPlane_txQueue]

/-- The transmission phase sends one chunk at most (R178, R184). -/
theorem txPhase_txQueue (s : State) : SendsAtMostChunk s (txPhase s) := by
  unfold txPhase
  split
  · exact sendChunk_txQueue s
  · rcases pop_cases s with ⟨_, h⟩ | ⟨id, rest, _, h⟩ <;> rw [h]
    · exact .of_eq rfl
    · obtain ⟨bytes, hqueue, hlen⟩ := sendIfSending_txQueue (startPlane id _)
      exact ⟨bytes, hqueue.trans (by rw [startPlane_txQueue]), hlen⟩

/-! ### The tick -/

theorem State.live_eq_false (s : State) (h : s.enable = false ∨ s.linkUp = false) : s.live = false := by
  rcases h with h | h <;> simp [State.live, h]

/-- A tick that is not live sends nothing (R173). -/
theorem tick_txQueue_of_not_live {s : State} (h : s.live = false) : (tick s).txQueue = s.txQueue := by
  simp [tick, h]

/-- A live tick sends what its transmission phase sends (R171). -/
theorem tick_txQueue_of_live {s : State} (h : s.live = true) : SendsAtMostChunk s (tick s) := by
  obtain ⟨bytes, hqueue, hlen⟩ := txPhase_txQueue (updateGates (rxPhase { s with rejectedThisTick := false }))
  refine ⟨bytes, ?_, hlen⟩
  rw [tick, if_pos h, endTick_txQueue, hqueue, updateGates_txQueue, rxPhase_txQueue]

theorem rxPhase_of_no_byte {s : State} (h : s.rxFifo = []) : rxPhase s = s := by
  have hfifo : { s with rxFifo := [] } = s := by rw [← h]
  rw [rxPhase, h, List.take_nil, List.drop_nil, List.foldl_nil, hfifo]

theorem txPhase_of_nothing_to_send {s : State} (hsending : s.sending = false) (htax : s.tax = []) : txPhase s = s := by
  simp [txPhase, pop, hsending, htax]

/-- An idle tick is the gate updates and the end of the tick (R171, R186). -/
theorem tick_of_idle {s : State} (hlive : s.live = true) (hsending : s.sending = false) (htax : s.tax = [])
    (hfifo : s.rxFifo = []) : tick s = endTick (updateGates { s with rejectedThisTick := false }) := by
  have hrx : rxPhase { s with rejectedThisTick := false } = { s with rejectedThisTick := false } :=
    rxPhase_of_no_byte hfifo
  have htx : txPhase (updateGates { s with rejectedThisTick := false }) =
      updateGates { s with rejectedThisTick := false } := by
    refine txPhase_of_nothing_to_send ?_ ?_ <;> rw [updateGates_frame]
    · exact hsending
    · exact htax
  rw [tick, if_pos hlive, hrx, htx]

/-- Settles O46: a tick that is not live sends nothing, a live one what its transmission phase sends, and an idle one is
`tick_of_idle`. -/
theorem tickBandwidth : Obligations.TickBandwidth := by
  refine fun s => ⟨?_, fun henable hlink hsending htax hfifo => ?_⟩
  · by_cases hlive : s.live = true
    · obtain ⟨bytes, hqueue, hlen⟩ := tick_txQueue_of_live hlive
      exact ⟨bytes, hqueue, hlen, fun hoff => nomatch hlive.symm.trans (s.live_eq_false hoff)⟩
    · rw [Bool.not_eq_true] at hlive
      exact ⟨[], by rw [tick_txQueue_of_not_live hlive, List.append_nil], Nat.zero_le 2, fun _ => rfl⟩
  · have hlive : s.live = true := by rw [State.live, henable, hlink]; rfl
    rw [tick_of_idle hlive hsending htax hfifo, endTick, updateGates_frame]
    exact ⟨_, _, _, rfl⟩

end Sys2Proof.Machine
end

section
/-! PROOF of O55 and O56: the host's accesses to the memory windows, which accesses are refused, and what a read changes. An
access of the legal shape is decided by the window of its address, which is said once for each window. -/

namespace Sys2Proof.Machine

/-! ### The windows (20_memory.md R65) -/

section
variable {p : Params} {addr : Addr} {k : Nat}

theorem windowOf_of_bwmAddr (ha : addr.toNat = 0x10000 + 4 * k) (hk : 4 * k < p.bwmSize) :
    windowOf p addr = .bwmWord k := by
  have hword : (addr.toNat - 0x10000) / 4 = k := by omega
  rw [windowOf, if_neg (by omega), hword, if_pos ⟨by omega, by unfold bwmWords; omega⟩]

/-- The PWM window lies behind the BWM window, since BWM has at most 65536 cells (00_scope.md R6). -/
theorem windowOf_of_pwmAddr (hsize : p.bwmSize ≤ 65536) (ha : addr.toNat = 0x20000 + 4 * k) (hk : k < p.pwmSize) :
    windowOf p addr = .pwmCell k := by
  have hword : (addr.toNat - 0x20000) / 4 = k := by omega
  rw [windowOf, if_neg (by omega), if_neg (by unfold bwmWords; omega), hword, if_pos ⟨by omega, hk⟩]

/-- An address in none of the windows (R71). -/
theorem windowOf_of_outside (hreg : 0x100 ≤ addr.toNat)
    (hbwm : ¬ (0x10000 ≤ addr.toNat ∧ addr.toNat < 0x10000 + 4 * ((p.bwmSize + 3) / 4)))
    (hpwm : ¬ (0x20000 ≤ addr.toNat ∧ addr.toNat < 0x20000 + 4 * p.pwmSize)) : windowOf p addr = .outside := by
  rw [windowOf, if_neg (by omega), if_neg (by unfold bwmWords; omega), if_neg (by omega)]

end

section
variable {s : State} {addr : Addr} {width : Nat} {w : Word} {rest : List Input}

theorem step_hostRead (hin : s.inputs = .hostRead addr width :: rest) :
    step s = hostRead addr width { s with inputs := rest } := by rw [step, hin]; rfl

theorem step_hostWrite (hin : s.inputs = .hostWrite addr width w :: rest) :
    step s = hostWrite addr width w { s with inputs := rest } := by rw [step, hin]; rfl

end

/-! ### Accesses to the memory windows (20_memory.md R66, R68) -/

section
variable {s : State} {addr : Addr} {w : Word} {rest : List Input} {k : Nat}

theorem step_bwmRead (ha : addr.toNat = 0x10000 + 4 * k) (hk : 4 * k < s.params.bwmSize)
    (hin : s.inputs = .hostRead addr 32 :: rest) :
    step s = reading (readBwmWord s k) fun v => .next { s with inputs := rest, hostData := v } := by
  rw [step_hostRead hin, hostRead, if_neg (by rw [accessShapeOK_of_aligned (by omega)]; decide),
    windowOf_of_bwmAddr ha hk]
  rfl

theorem step_bwmWrite (ha : addr.toNat = 0x10000 + 4 * k) (hk : 4 * k < s.params.bwmSize)
    (hin : s.inputs = .hostWrite addr 32 w :: rest) :
    step s = .next
      { s with inputs := rest, bwm := s.bwm.writeRange (4 * k) (bwmWordBytes s.params k w) } := by
  rw [step_hostWrite hin, hostWrite, if_neg (by rw [accessShapeOK_of_aligned (by omega)]; decide),
    windowOf_of_bwmAddr ha hk]

theorem step_pwmRead (hsize : s.params.bwmSize ≤ 65536) (ha : addr.toNat = 0x20000 + 4 * k) (hk : k < s.params.pwmSize)
    (hin : s.inputs = .hostRead addr 32 :: rest) :
    step s = reading (s.pwm.read k) fun c => .next { s with inputs := rest, hostData := c.setWidth 32 } := by
  rw [step_hostRead hin, hostRead, if_neg (by rw [accessShapeOK_of_aligned (by omega)]; decide),
    windowOf_of_pwmAddr hsize ha hk]
  rfl

theorem step_pwmWrite (hsize : s.params.bwmSize ≤ 65536) (ha : addr.toNat = 0x20000 + 4 * k) (hk : k < s.params.pwmSize)
    (hin : s.inputs = .hostWrite addr 32 w :: rest) :
    step s = .next { s with inputs := rest, pwm := s.pwm.write k (w.setWidth 16) } := by
  rw [step_hostWrite hin, hostWrite, if_neg (by rw [accessShapeOK_of_aligned (by omega)]; decide),
    windowOf_of_pwmAddr hsize ha hk]

end

/-! ### The bytes of a host word -/

/-- Four bytes side by side are their little-endian value. -/
theorem append_eq_littleEndian (b0 b1 b2 b3 : Byte) :
    b3 ++ b2 ++ b1 ++ b0 = BitVec.ofNat 32 (littleEndian [b0, b1, b2, b3]) := by
  apply BitVec.eq_of_toNat_eq
  have := b0.isLt
  have := b1.isLt
  have := b2.isLt
  have := b3.isLt
  simp only [BitVec.toNat_append, BitVec.toNat_ofNat, littleEndian, List.foldr_cons, List.foldr_nil]
  rw [← Nat.shiftLeft_add_eq_or_of_lt b0.isLt, ← Nat.shiftLeft_add_eq_or_of_lt b1.isLt,
    ← Nat.shiftLeft_add_eq_or_of_lt b2.isLt]
  simp only [Nat.shiftLeft_eq]
  omega

/-- The byte of a word at a position is a digit of its value in base 256. -/
theorem bwmWordBytes_getElem? (p : Params) (k : Nat) (w : Word) {i : Nat} (hi : i < 4) (hlt : 4 * k + i < p.bwmSize) :
    (bwmWordBytes p k w)[i]? = some (BitVec.ofNat 8 (w.toNat / 256 ^ i)) := by
  rw [bwmWordBytes, List.getElem?_take_of_lt (by omega)]
  have hbyte (n : Nat) : w.extractLsb' (8 * n) 8 = BitVec.ofNat 8 (w.toNat / 256 ^ n) := by
    apply BitVec.eq_of_toNat_eq
    rw [BitVec.extractLsb'_toNat, BitVec.toNat_ofNat, Nat.shiftRight_eq_div_pow, Nat.pow_mul]
  interval_cases i
  · exact congrArg some (hbyte 0)
  · exact congrArg some (hbyte 1)
  · exact congrArg some (hbyte 2)
  · exact congrArg some (hbyte 3)

theorem bwmWordBytes_length (p : Params) (k : Nat) (w : Word) : (bwmWordBytes p k w).length = min (p.bwmSize - 4 * k) 4 := by
  rw [bwmWordBytes, List.length_take]; rfl

/-- The memory after a host write of a BWM word (R66). -/
theorem read_writeRange_bwmWordBytes (m : Memory 8) (p : Params) (k : Nat) (w : Word) (b : Nat) :
    (m.writeRange (4 * k) (bwmWordBytes p k w)).read b =
      if 4 * k ≤ b ∧ b < 4 * k + 4 ∧ b < p.bwmSize then some (BitVec.ofNat 8 (w.toNat / 256 ^ (b - 4 * k)))
      else m.read b := by
  rw [Memory.read_writeRange, bwmWordBytes_length]
  split
  · rw [if_pos (by omega), bwmWordBytes_getElem? p k w (by omega) (by omega)]
  · rw [if_neg (by omega)]

section
variable {s : State} {k : Nat}

/-- A host word of four bytes that BWM holds, or that stand above it and are 0 (R66). -/
theorem readBwmWord_of_bytes {B : List Byte} (hB : B.length = 4)
    (h : ∀ i < 4, if 4 * k + i < s.params.bwmSize then s.bwm.read (4 * k + i) = B[i]? else B[i]? = some 0) :
    readBwmWord s k = some (BitVec.ofNat 32 (littleEndian B)) := by
  obtain ⟨b0, b1, b2, b3, rfl⟩ := List.length_eq_four.mp hB
  have hbyte : ∀ i < 4, bwmByte s (4 * k + i) = [b0, b1, b2, b3][i]? := by
    intro i hi
    have hi' := h i hi
    unfold bwmByte
    split
    · next hlt => rwa [if_pos hlt] at hi'
    · next hge => rw [if_neg hge] at hi'; exact hi'.symm
  rw [← append_eq_littleEndian, readBwmWord, hbyte 1 (by decide), hbyte 2 (by decide), hbyte 3 (by decide),
    show bwmByte s (4 * k) = some b0 from hbyte 0 (by decide)]
  rfl

/-- A host word with an unwritten byte has no value (R67). -/
theorem readBwmWord_of_unwritten {i : Nat} (hi : i < 4) (hlt : 4 * k + i < s.params.bwmSize)
    (hnone : s.bwm.read (4 * k + i) = none) : readBwmWord s k = none := by
  have hbyte : bwmByte s (4 * k + i) = none := (if_pos hlt).trans hnone
  unfold readBwmWord
  split
  · next h0 h1 h2 h3 =>
    interval_cases i
    · exact nomatch hbyte.symm.trans h0
    · exact nomatch hbyte.symm.trans h1
    · exact nomatch hbyte.symm.trans h2
    · exact nomatch hbyte.symm.trans h3
  · rfl

end

/-- Settles O55: each access by the lemma of its window. -/
theorem memoryWindows : Obligations.MemoryWindows := by
  refine fun s addr w rest k hsize => ⟨fun ha hk => ⟨fun hin => ?_, fun hin => ⟨fun B hB hbytes => ?_, ?_⟩⟩,
    fun ha hk => ⟨fun hin => ?_, fun hin => ⟨fun c hc => ?_, fun hnone => ?_⟩⟩⟩
  · exact ⟨_, step_bwmWrite ha hk hin, read_writeRange_bwmWordBytes s.bwm s.params k w⟩
  · rw [step_bwmRead ha hk hin, readBwmWord_of_bytes hB hbytes, reading]
  · rintro ⟨i, hi, hlt, hnone⟩
    rw [step_bwmRead ha hk hin, readBwmWord_of_unwritten hi hlt hnone, reading]
  · refine ⟨_, step_pwmWrite hsize ha hk hin, fun b => ?_⟩
    split
    · next hb => rw [hb, Memory.read_write_same, BitVec.ofNat_toNat]
    · next hb => exact Memory.read_write_other _ _ hb
  · rw [step_pwmRead hsize ha hk hin, hc, reading, BitVec.ofNat_toNat]
  · rw [step_pwmRead hsize ha hk hin, hnone, reading]

/-! ### Refused accesses, and what a read changes (20_memory.md R71, R76) -/

section
variable {s : State} {addr : Addr} {width : Nat}

/-- An access that is not of the legal shape inside a window (R71). -/
theorem accessShapeOK_or_outside (h : width ≠ 32 ∨ addr.toNat % 4 ≠ 0 ∨
      (0x100 ≤ addr.toNat ∧
        ¬ (0x10000 ≤ addr.toNat ∧ addr.toNat < 0x10000 + 4 * ((s.params.bwmSize + 3) / 4)) ∧
        ¬ (0x20000 ≤ addr.toNat ∧ addr.toNat < 0x20000 + 4 * s.params.pwmSize))) :
    accessShapeOK addr width = false ∨ windowOf s.params addr = .outside := by
  rcases h with hwidth | haligned | ⟨hreg, hbwm, hpwm⟩
  · exact .inl (by simp [accessShapeOK, hwidth])
  · exact .inl (by simp [accessShapeOK, haligned])
  · exact .inr (windowOf_of_outside hreg hbwm hpwm)

theorem hostRead_refused (h : accessShapeOK addr width = false ∨ windowOf s.params addr = .outside) :
    hostRead addr width s = .fault .busRefused := by
  unfold hostRead
  split
  · rfl
  · next hshape => rw [h.resolve_left hshape]

theorem hostWrite_refused (w : Word) (h : accessShapeOK addr width = false ∨ windowOf s.params addr = .outside) :
    hostWrite addr width w s = .fault .busRefused := by
  unfold hostWrite
  split
  · rfl
  · next hshape => rw [h.resolve_left hshape]

/-- A host read that answers changes the word the host is given alone (R76). -/
theorem hostRead_frame (addr : Addr) (width : Nat) (s : State) :
    NextHas (fun t => t = { s with hostData := t.hostData }) (hostRead addr width s) := by
  have hdeliver (v : Word) : NextHas (fun t => t = { s with hostData := t.hostData }) (deliver v s) := by
    intro t ht
    cases ht
    rfl
  unfold hostRead
  split
  · exact fun t ht => nomatch ht
  · split
    · exact hdeliver _
    · exact .reading hdeliver
    · exact .reading fun c => hdeliver _
    · exact fun t ht => nomatch ht

/-- A write of a register word other than CMD answers (R40, R71). -/
theorem writeRegister_answers {a : Nat} (ha : a ≠ 0x00C) (w : Word) (s : State) : ∃ t, writeRegister a w s = .next t := by
  unfold writeRegister
  split
  case h_2 => exact absurd rfl ha
  all_goals exact ⟨_, rfl⟩

end

/-- Settles O56: the refused accesses, the register window, and the frame of a read. -/
theorem hostAccesses : Obligations.HostAccesses := by
  refine fun s addr width data rest => ⟨fun h => ⟨fun hin => ?_, fun hin => ?_⟩,
    fun hlt haligned => ⟨fun hin => ?_, fun hin hcmd => ?_⟩, fun hin t ht => ?_⟩
  · rw [step_hostRead hin]
    exact hostRead_refused (accessShapeOK_or_outside h)
  · rw [step_hostWrite hin]
    exact hostWrite_refused data (accessShapeOK_or_outside h)
  · exact ⟨_, step_registerRead hin hlt haligned⟩
  · rw [step_registerWrite hin hlt haligned]
    exact writeRegister_answers hcmd data _
  · rw [step_hostRead hin] at ht
    exact hostRead_frame addr width _ t ht

end Sys2Proof.Machine
end

section
/-! PROOF of O58: the result codes of the commands. `EndsIn codes a` says that a command finishes with one of some codes, or
stops in UNINIT_READ; it is carried through the ways a command can end, and each shared procedure says its codes once. -/

namespace Sys2Proof.Machine

/-- The command finishes with one of these result codes, or a cell it reads is unwritten (20_memory.md R67). -/
def EndsIn (codes : List ResultCode) (a : Answer) : Prop :=
  (∃ t, a = .next t ∧ t.result ∈ codes) ∨ a = .fault .uninitRead

/-! ### The codes of the shared procedures -/

/-- The codes of a scan or an analysis that finds no good plane (42_packet.md R118, R120). -/
def planeFailures : List ResultCode := [.crashed, .failed, .incompatibility]

theorem scanCheck_error {cells : List (Option Chunk)} {i : Nat} {r : ResultCode}
    (h : scanCheck cells i = some (.error r)) : r = .crashed := by
  induction cells generalizing i with
  | nil => cases h; rfl
  | cons c cells ih =>
    cases c with
    | none => cases h
    | some c =>
      rw [scanCheck] at h
      split_ifs at h
      · cases h; rfl
      · cases h
      · exact ih h

theorem totalSize_error {cells : List (Option Chunk)} {r : ResultCode} (h : totalSize cells = some (.error r)) :
    r ∈ planeFailures := by
  unfold totalSize at h
  split at h
  · cases h; decide
  · cases h
  · split_ifs at h
    · rw [scanCheck_error h]; decide
    · cases h; decide

theorem checkPlane_error {supported : List Byte} {P : List Chunk} {r : ResultCode}
    (h : checkPlane supported P = .error r) : r ∈ planeFailures := by
  unfold checkPlane at h
  split_ifs at h <;> cases h <;> decide

theorem analyzeCells_error {supported : List Byte} {cells : List (Option Chunk)} {r : ResultCode}
    (h : analyzeCells supported cells = some (.error r)) : r ∈ planeFailures := by
  unfold analyzeCells at h
  split at h
  · cases h
  · next hsize => cases h; exact totalSize_error hsize
  · exact checkPlane_error (Option.some.inj h)

theorem analyzePlane_error {supported : List Byte} {P : List Chunk} {r : ResultCode}
    (h : analyzePlane supported P = .error r) : r ∈ planeFailures := by
  unfold analyzePlane at h
  rcases hcells : analyzeCells supported (P.map some) with _ | a <;> rw [hcells] at h
  · cases h; decide
  · rw [Option.getD_some] at h
    exact analyzeCells_error (hcells.trans (congrArg some h))

/-- The reading of a segment fails with Crashed alone (42_packet.md R129). -/
theorem segmentBytes_error {cells : List (Option Chunk)} {r : ResultCode}
    (h : segmentBytes cells = some (.error r)) : r = .crashed := by
  induction cells generalizing r with
  | nil => cases h
  | cons c cells ih =>
    cases c with
    | none => cases h
    | some c =>
      rw [segmentBytes] at h
      split_ifs at h
      · cases h; rfl
      · split at h
        · cases h
        · next hrest => cases h; exact ih hrest
        · cases h

theorem put_code (id : Byte) (s : State) : (put id s).1 ∈ [ResultCode.passed, .failed] := by
  rcases put_cases id s with ⟨_, h⟩ | ⟨_, _, h⟩ | ⟨_, _, h⟩ <;> rw [h]
  · exact .tail _ (.head _)
  · exact .tail _ (.head _)
  · exact .head _

/-- The codes of a dock (45_gate.md R208). -/
def dockCodes : List ResultCode := [.passed, .crashed, .failed, .incompatibility, .unecessary]

theorem passed_mem_dockCodes : .passed ∈ dockCodes := by decide

theorem failed_mem_dockCodes : .failed ∈ dockCodes := by decide

theorem incompatibility_mem_dockCodes : .incompatibility ∈ dockCodes := by decide

theorem unecessary_mem_dockCodes : .unecessary ∈ dockCodes := by decide

theorem planeFailures_subset_dockCodes : planeFailures ⊆ dockCodes := by decide

theorem dockError_code (P : List Chunk) (s : State) : (dockError P s).1 ∈ dockCodes := by
  unfold dockError
  split
  · exact failed_mem_dockCodes
  · split
    · next h => exact planeFailures_subset_dockCodes (analyzePlane_error h)
    · split_ifs
      · exact failed_mem_dockCodes
      · exact failed_mem_dockCodes
      · exact passed_mem_dockCodes

theorem masterDock_code (g : Gate) (L : List (List Byte)) (s : State) : (masterDock g L s).1 ∈ dockCodes := by
  unfold masterDock
  split_ifs
  · exact unecessary_mem_dockCodes
  · exact passed_mem_dockCodes

theorem queueAnswer_code (g : Gate) (A : List (List Byte)) (s : State) : (queueAnswer g A s).1 ∈ dockCodes := by
  unfold queueAnswer
  split
  · exact failed_mem_dockCodes
  · split_ifs
    · exact failed_mem_dockCodes
    · split
      · exact passed_mem_dockCodes
      · exact failed_mem_dockCodes

theorem slaveDock_code (g : Gate) (L : List (List Byte)) (s : State) : (slaveDock g L s).1 ∈ dockCodes := by
  unfold slaveDock
  split_ifs
  · exact failed_mem_dockCodes
  · dsimp only
    split
    · exact passed_mem_dockCodes
    · exact queueAnswer_code _ _ _

theorem dockAtGate_code (g : Gate) (P : List Chunk) (s : State) : (dockAtGate g P s).1 ∈ dockCodes := by
  unfold dockAtGate
  split
  · next h => exact planeFailures_subset_dockCodes (analyzePlane_error h)
  · split_ifs
    · exact failed_mem_dockCodes
    · exact failed_mem_dockCodes
    · split
      · exact masterDock_code _ _ _
      · exact slaveDock_code _ _ _

/-- A dock answers with one of the codes of GATE_DOCK. -/
theorem dock_code (P : List Chunk) (s : State) : (dock P s).1 ∈ dockCodes := by
  unfold dock
  split_ifs
  · exact dockError_code P s
  · split
    · exact incompatibility_mem_dockCodes
    · exact dockAtGate_code _ P s

/-! ### The ways a command ends -/

section
variable {codes : List ResultCode} {s t : State}

theorem EndsIn.finish {code : ResultCode} (h : code ∈ codes) : EndsIn codes (finish code t) := .inl ⟨_, rfl, h⟩

theorem EndsIn.reading {α : Type} {cells : Option α} {go : α → Answer} (h : ∀ v, cells = some v → EndsIn codes (go v)) :
    EndsIn codes (reading cells go) := by
  rcases reading_cases cells go with ⟨_, e⟩ | ⟨v, hv, e⟩ <;> rw [e]
  · exact .inr rfl
  · exact h v hv

/-- A test that ends a command with one of the codes. -/
theorem EndsIn.guard {p : Prop} {_ : Decidable p} {code : ResultCode} {a : Answer} (hcode : code ∈ codes)
    (h : EndsIn codes a) : EndsIn codes (if p then Machine.finish code t else a) := by
  split
  · exact .finish hcode
  · exact h

theorem EndsIn.withPlane {go : List Chunk → Answer} (hcodes : planeFailures ⊆ codes) (h : ∀ P, EndsIn codes (go P)) :
    EndsIn codes (withPlane s go) := by
  refine .guard (hcodes (by decide)) (.reading fun size hsize => ?_)
  split
  · exact .finish (hcodes (totalSize_error hsize))
  · exact .reading fun P _ => h P

theorem EndsIn.withAnalysis {go : PlaneInfo → Answer} (hcodes : planeFailures ⊆ codes)
    (h : ∀ info, EndsIn codes (go info)) : EndsIn codes (withAnalysis s go) := by
  refine .reading fun analysis hanalysis => ?_
  split
  · exact .finish (hcodes (analyzeCells_error hanalysis))
  · exact h _

end

section
variable (s : State)

/-! ### Chunk and scalar commands -/

theorem execChunkEncode_codes : EndsIn (resultCodesOf .chunkEncode) (execChunkEncode s) := by
  unfold execChunkEncode
  split <;> exact .finish (by decide)

theorem execChunkDecode_codes : EndsIn (resultCodesOf .chunkDecode) (execChunkDecode s) := by
  unfold execChunkDecode
  split <;> exact .finish (by decide)

theorem execChunkToWire_codes : EndsIn (resultCodesOf .chunkToWire) (execChunkToWire s) := by
  unfold execChunkToWire
  split <;> exact .finish (by decide)

theorem execChunkFromWire_codes : EndsIn (resultCodesOf .chunkFromWire) (execChunkFromWire s) := by
  unfold execChunkFromWire
  split <;> exact .finish (by decide)

theorem execScalarToBytes_codes : EndsIn (resultCodesOf .scalarToBytes) (execScalarToBytes s) := by
  refine .guard (by decide) ?_
  split
  · exact .finish (by decide)
  · exact .finish (by decide)
  · exact .guard (by decide) (.finish (by decide))

theorem execScalarToData_codes : EndsIn (resultCodesOf .scalarToData) (execScalarToData s) := by
  refine .guard (by decide) ?_
  split
  · exact .finish (by decide)
  · exact .finish (by decide)
  · exact .guard (by decide) (.reading fun B _ => .guard (by decide) (.finish (by decide)))

theorem execScalarGetArraySize_codes : EndsIn (resultCodesOf .scalarGetArraySize) (execScalarGetArraySize s) := by
  unfold execScalarGetArraySize
  split <;> exact .finish (by decide)

/-! ### Packet commands -/

theorem execPktCreate_codes : EndsIn (resultCodesOf .pktCreate) (execPktCreate s) :=
  .guard (by decide) (.guard (by decide) (.reading fun _ _ => .guard (by decide) (.finish (by decide))))

theorem execPktAppend_codes : EndsIn (resultCodesOf .pktAppend) (execPktAppend s) :=
  .guard (by decide) (.guard (by decide) (.reading fun _ _ => .reading fun _ _ => .finish (by decide)))

theorem execPktSegFromBytes_codes : EndsIn (resultCodesOf .pktSegFromBytes) (execPktSegFromBytes s) :=
  .guard (by decide) (.guard (by decide) (.reading fun _ _ => .finish (by decide)))

theorem execPktVerifyCheckSum_codes : EndsIn (resultCodesOf .pktVerifyCheckSum) (execPktVerifyCheckSum s) := by
  refine .withPlane (by decide) fun P => ?_
  split <;> exact .finish (by decide)

theorem execPktGetTotalSize_codes : EndsIn (resultCodesOf .pktGetTotalSize) (execPktGetTotalSize s) :=
  .withPlane (by decide) fun _ => .finish (by decide)

theorem execPktVerifyID_codes : EndsIn (resultCodesOf .pktVerifyID) (execPktVerifyID s) := by
  refine .guard (by decide) (.guard (by decide) (.reading fun c _ => .guard (by decide) ?_))
  split <;> exact .finish (by decide)

theorem execPktGetParamCount_codes : EndsIn (resultCodesOf .pktGetParamCount) (execPktGetParamCount s) :=
  .withPlane (by decide) fun _ => .finish (by decide)

theorem execPktSegToBytes_codes : EndsIn (resultCodesOf .pktSegToBytes) (execPktSegToBytes s) := by
  refine .guard (by decide) (.guard (by decide) (.reading fun c _ => .guard (by decide) (.reading fun bytes hbytes => ?_)))
  split
  · rw [segmentBytes_error hbytes]
    exact .finish (by decide)
  · exact .guard (by decide) (.finish (by decide))

theorem execPktFullyAnalyze_codes : EndsIn (resultCodesOf .pktFullyAnalyze) (execPktFullyAnalyze s) :=
  .guard (by decide) (.withAnalysis (by decide) fun _ => .finish (by decide))

theorem execPktGetParameter_codes : EndsIn (resultCodesOf .pktGetParameter) (execPktGetParameter s) := by
  refine .guard (by decide) (.withAnalysis (by decide) fun info => ?_)
  split
  · exact .finish (by decide)
  · exact .guard (by decide) (.finish (by decide))

/-! ### Terminal commands -/

theorem execTermPop_codes : EndsIn (resultCodesOf .termPop) (execTermPop s) := by
  unfold execTermPop
  split <;> exact .finish (by decide)

theorem execTermArriveChunk_codes : EndsIn (resultCodesOf .termArriveChunk) (execTermArriveChunk s) := by
  unfold execTermArriveChunk
  split <;> exact .finish (by decide)

theorem execTermTakeArrival_codes : EndsIn (resultCodesOf .termTakeArrival) (execTermTakeArrival s) :=
  .guard (by decide) (.guard (by decide) (.guard (by decide) (.finish (by decide))))

/-! ### Gate commands -/

theorem requestWith_codes (g : Gate) (L : List (List Byte)) : EndsIn (resultCodesOf .gateRequest) (requestWith g L s) := by
  refine .guard (by decide) ?_
  split
  · exact .finish (by decide)
  · split <;> exact .finish (by decide)

theorem execGateRequest_codes : EndsIn (resultCodesOf .gateRequest) (execGateRequest s) := by
  refine .guard (by decide) ?_
  split
  · exact .finish (by decide)
  · refine .guard (by decide) (.reading fun parsed _ => ?_)
    split
    · exact .finish (by decide)
    · exact requestWith_codes s _ _

theorem execGateRead_codes : EndsIn (resultCodesOf .gateRead) (execGateRead s) := by
  refine .guard (by decide) ?_
  split
  · exact .finish (by decide)
  · exact .guard (by decide) (.guard (by decide) (.finish (by decide)))

theorem execGateStatus_codes : EndsIn (resultCodesOf .gateStatus) (execGateStatus s) := by
  unfold execGateStatus
  split <;> exact .finish (by decide)

end

/-- Settles O58: each command ends in a code of its row of 46_system.md R228. -/
theorem resultCodesOfCommands : Obligations.ResultCodesOfCommands := by
  intro i s
  show EndsIn (resultCodesOf i) (exec i s)
  cases i with
  | nop => exact .finish (by decide)
  | chunkEncode => exact execChunkEncode_codes s
  | chunkDecode => exact execChunkDecode_codes s
  | chunkToWire => exact execChunkToWire_codes s
  | chunkFromWire => exact execChunkFromWire_codes s
  | scalarToBytes => exact execScalarToBytes_codes s
  | scalarToData => exact execScalarToData_codes s
  | scalarGetArraySize => exact execScalarGetArraySize_codes s
  | pktCreate => exact execPktCreate_codes s
  | pktAppend => exact execPktAppend_codes s
  | pktSegFromBytes => exact execPktSegFromBytes_codes s
  | pktVerifyCheckSum => exact execPktVerifyCheckSum_codes s
  | pktGetTotalSize => exact execPktGetTotalSize_codes s
  | pktVerifyID => exact execPktVerifyID_codes s
  | pktGetParamCount => exact execPktGetParamCount_codes s
  | pktSegToBytes => exact execPktSegToBytes_codes s
  | pktFullyAnalyze => exact execPktFullyAnalyze_codes s
  | pktGetParameter => exact execPktGetParameter_codes s
  | termPut => exact .finish (put_code _ s)
  | termIsOnTaxiway => exact .finish (by decide)
  | termPop => exact execTermPop_codes s
  | termArriveChunk => exact execTermArriveChunk_codes s
  | termTakeArrival => exact execTermTakeArrival_codes s
  | termArrivalInfo => exact .finish (by decide)
  | termReset => exact .finish (by decide)
  | gateRequest => exact execGateRequest_codes s
  | gateRead => exact execGateRead_codes s
  | gateStatus => exact execGateStatus_codes s
  | gateDock => exact .withPlane (by decide) fun P => .finish (dock_code P s)

end Sys2Proof.Machine
end

section
/-! PROOF of O1, O2 and O3: the decoder and the encoder. `decode_cases` says once how a word decodes, by
its two fields; the opcode map and `opcodeOf` invert each other, so a word that decodes is the word of its
command, and the words that do not are those outside the ranges of `listedOpcode`. -/

namespace Sys2Proof

/-! ### The opcode map and its inverse (30_encoding.md R88) -/

/-- Each row of the opcode map has the opcode of its command. -/
theorem opcodeOf_of_mem_opcodeMap : ∀ row ∈ opcodeMap, opcodeOf row.2 = row.1 := by decide

/-- The command found for an opcode is the one that has it. -/
theorem commandOf_eq_some_iff (op : Byte) (i : Instr) : commandOf op = some i ↔ op = opcodeOf i := by
  constructor
  · intro h
    obtain ⟨row, hfound, rfl⟩ := Option.map_eq_some_iff.mp h
    have hop : row.1 = op := by simpa using List.find?_some hfound
    rw [opcodeOf_of_mem_opcodeMap row (List.mem_of_find?_eq_some hfound), hop]
  · rintro rfl
    exact commandOf_opcodeOf i

/-! ### The decoder by the fields of the word (R84, R85) -/

/-- How a word decodes: its MBZ field is tested first, and then the opcode map is searched. -/
theorem decode_cases (w : Word) :
    ((CmdWord.ofWord w).mbz ≠ 0 ∧ decode w = .error .mbzNonzero) ∨
    ((CmdWord.ofWord w).mbz = 0 ∧ commandOf (CmdWord.ofWord w).opcode = none ∧ decode w = .error .opcodeUnlisted) ∨
    (∃ i, (CmdWord.ofWord w).mbz = 0 ∧ commandOf (CmdWord.ofWord w).opcode = some i ∧ decode w = .ok i) := by
  unfold decode
  dsimp only
  split
  · next hmbz => exact .inl ⟨hmbz, rfl⟩
  · next hmbz =>
    rw [not_not] at hmbz
    cases hop : commandOf (CmdWord.ofWord w).opcode with
    | none => exact .inr (.inl ⟨hmbz, rfl, rfl⟩)
    | some i => exact .inr (.inr ⟨i, hmbz, rfl, rfl⟩)

theorem decode_eq_ok_iff_fields (w : Word) (i : Instr) :
    decode w = .ok i ↔ (CmdWord.ofWord w).mbz = 0 ∧ commandOf (CmdWord.ofWord w).opcode = some i := by
  rcases decode_cases w with ⟨hmbz, h⟩ | ⟨_, hop, h⟩ | ⟨j, hmbz, hop, h⟩ <;> rw [h]
  · exact iff_of_false nofun fun hfields => hmbz hfields.1
  · rw [hop]
    exact iff_of_false nofun nofun
  · rw [hop, Except.ok.injEq, Option.some.injEq]
    exact (and_iff_right hmbz).symm

/-- A word decodes to a command exactly when it is that command's word (R85, R88). -/
theorem decode_eq_ok_iff (w : Word) (i : Instr) : decode w = .ok i ↔ w = encode i := by
  rw [decode_eq_ok_iff_fields, commandOf_eq_some_iff]
  constructor
  · rintro ⟨hmbz, hop⟩
    rw [encode, ← hmbz, ← hop, CmdWord.toWord_ofWord]
  · rintro rfl
    rw [encode, CmdWord.ofWord_toWord]
    exact ⟨rfl, rfl⟩

theorem decode_encode (i : Instr) : decode (encode i) = .ok i := (decode_eq_ok_iff _ i).mpr rfl

/-! ### The illegal words (R89) -/

theorem CmdWord.ofWord_opcode_toNat (w : Word) : (CmdWord.ofWord w).opcode.toNat = w.toNat % 256 := by
  simp [CmdWord.ofWord]

theorem CmdWord.ofWord_mbz_eq_zero_iff (w : Word) : (CmdWord.ofWord w).mbz = 0 ↔ w.toNat < 256 := by
  have := w.isLt
  have hmbz : (CmdWord.ofWord w).mbz.toNat = w.toNat / 256 % 2 ^ 24 := by
    rw [CmdWord.ofWord, BitVec.extractLsb'_toNat, Nat.shiftRight_eq_div_pow]
  rw [← BitVec.toNat_inj, hmbz, show (0 : BitVec 24).toNat = 0 from rfl]
  omega

/-- A word decodes to no command exactly when it is not well formed. -/
theorem decode_eq_error_iff_wf (w : Word) : (∃ e, decode w = .error e) ↔ (CmdWord.ofWord w).wf = false := by
  rw [CmdWord.wf, listedOpcode_eq_isSome]
  rcases decode_cases w with ⟨hmbz, h⟩ | ⟨_, hop, h⟩ | ⟨i, hmbz, hop, h⟩ <;> rw [h]
  · rw [beq_eq_false_iff_ne.mpr hmbz]
    exact iff_of_true ⟨_, rfl⟩ rfl
  · rw [hop]
    exact iff_of_true ⟨_, rfl⟩ (Bool.and_false _)
  · rw [hmbz, hop]
    exact iff_of_false nofun nofun

/-- The words of R89 are those that are not well formed: a nonzero MBZ, or an opcode between the listed ones. -/
theorem CmdWord.ofWord_wf_eq_false_iff (w : Word) : (CmdWord.ofWord w).wf = false ↔
    (256 ≤ w.toNat ∨ (0x01 ≤ w.toNat ∧ w.toNat ≤ 0x0F) ∨ (0x14 ≤ w.toNat ∧ w.toNat ≤ 0x1F) ∨
      (0x23 ≤ w.toNat ∧ w.toNat ≤ 0x2F) ∨ (0x3A ≤ w.toNat ∧ w.toNat ≤ 0x3F) ∨
      (0x47 ≤ w.toNat ∧ w.toNat ≤ 0x5F) ∨ (0x64 ≤ w.toNat ∧ w.toNat ≤ 0xFF)) := by
  rw [← Bool.not_eq_true]
  simp only [CmdWord.wf, listedOpcode, Bool.and_eq_true, Bool.or_eq_true, beq_iff_eq, decide_eq_true_eq,
    CmdWord.ofWord_mbz_eq_zero_iff, CmdWord.ofWord_opcode_toNat]
  omega

/-- Settles O1: the words of commands by `decode_encode`, the two illegal ones by running the decoder. -/
theorem writtenWordsDecode : Obligations.WrittenWordsDecode :=
  ⟨decode_encode .nop, decode_encode .chunkFromWire, decode_encode .scalarToBytes, decode_encode .pktFullyAnalyze,
    decode_encode .termArriveChunk, decode_encode .gateRequest, decode_encode .gateDock, by decide, by decide⟩

/-- Settles O2: the round trip is `decode_eq_ok_iff`, and a word without a command is one that is not well formed. -/
theorem decodeAndEncodeAgree : Obligations.DecodeAndEncodeAgree :=
  ⟨decode_eq_ok_iff, fun w => (decode_eq_error_iff_wf w).trans (CmdWord.ofWord_wf_eq_false_iff w)⟩

namespace Machine

/-- A host write to CMD runs the word written (R84). -/
theorem step_cmdWrite {s : State} {w : Word} {rest : List Input} (hin : s.inputs = cmdWrite w :: rest) :
    step s = runCommand w { s with inputs := rest } := step_registerWrite hin (by decide) (by decide)

/-- Settles O3: `step_cmdWrite`, with the command the word decodes to. -/
theorem stepRunsDecodedCommand : Obligations.StepRunsDecodedCommand := by
  intro s w rest i hin hdecode
  rw [step_cmdWrite hin, runCommand, hdecode]

end Machine

end Sys2Proof
end

section
/-! PROOF of O49: a plane being sent leaves chunk by chunk. `Sending s chunks` says that `s` is live, receives nothing and
has these chunks of its plane still to send; one tick sends the first of them (`tick_of_sending_more`,
`tick_of_sending_last`), and the statement is an induction over the chunks. -/

namespace Sys2Proof.Machine

/-- The two bytes of a chunk on the line, b0 first (30_encoding.md R94, R95). -/
def wireBytes (c : Chunk) : List Byte := [BitVec.ofNat 8 (c.toNat / 256), BitVec.ofNat 8 (c.toNat % 256)]

theorem toWire_eq_wireBytes (c : Chunk) : [(toWire c).1, (toWire c).2] = wireBytes c := by
  have h0 : (toWire c).1 = BitVec.ofNat 8 (c.toNat / 256) := by
    apply BitVec.eq_of_toNat_eq
    simp [toWire, Nat.shiftRight_eq_div_pow]
  have h1 : (toWire c).2 = BitVec.ofNat 8 (c.toNat % 256) := by
    apply BitVec.eq_of_toNat_eq
    simp [toWire]
  rw [h0, h1, wireBytes]

/-! ### One chunk (44_runway.md R179) -/

theorem updateOwner_writes_gates (f : Gate → Gate) (s : State) :
    ∃ gates, updateOwner f s = { s with gates := gates } := ⟨_, updateOwner_frame f s⟩

section
variable {s : State} {c : Chunk}

/-- A chunk that is not the last is put on the line; beside that `sendChunk` writes the gates alone. -/
theorem sendChunk_of_more (hget : s.txBuf[s.txChunk]? = some c) (hmore : s.txChunk + 1 < s.txBuf.length) :
    ∃ gates, sendChunk s =
      { s with gates := gates, txQueue := s.txQueue ++ wireBytes c, txChunk := s.txChunk + 1 } := by
  obtain ⟨gates, hleaving⟩ := updateOwner_writes_gates Gate.leaving
    { s with txQueue := s.txQueue ++ wireBytes c, txChunk := s.txChunk + 1 }
  have hne : s.txChunk + 1 ≠ s.txBuf.length := Nat.ne_of_lt hmore
  refine ⟨gates, ?_⟩
  unfold sendChunk
  rw [hget]
  dsimp only
  rw [toWire_eq_wireBytes, hleaving]
  exact if_neg hne

/-- The last chunk is put on the line as well, and it ends the plane and reports PLANE_DEPARTED. -/
theorem sendChunk_of_last (hget : s.txBuf[s.txChunk]? = some c) (hlast : s.txChunk + 1 = s.txBuf.length) :
    ∃ gates, sendChunk s =
      { s with
        gates := gates
        txQueue := s.txQueue ++ wireBytes c
        txChunk := s.txChunk + 1
        sending := false
        events := s.events ||| Event.planeDeparted.mask } := by
  obtain ⟨gates, hleaving⟩ := updateOwner_writes_gates Gate.leaving
    { s with txQueue := s.txQueue ++ wireBytes c, txChunk := s.txChunk + 1 }
  obtain ⟨gates', hleft⟩ := updateOwner_writes_gates (Gate.left s.params.role)
    ({ s with
      gates := gates
      txQueue := s.txQueue ++ wireBytes c
      txChunk := s.txChunk + 1
      sending := false }.report .planeDeparted)
  refine ⟨gates', ?_⟩
  unfold sendChunk
  rw [hget]
  dsimp only
  rw [toWire_eq_wireBytes, hleaving]
  exact (if_pos hlast).trans hleft

end

/-! ### One tick -/

/-- A live block with nothing to receive that is sending a plane: the chunks not sent yet. -/
structure Sending (s : State) (chunks : List Chunk) : Prop where
  enabled : s.enable = true
  linked : s.linkUp = true
  silent : s.rxFifo = []
  sending : s.sending = true
  left : s.txBuf.drop s.txChunk = chunks

section
variable {s : State} {c : Chunk} {rest : List Chunk}

/-- The gate updates of the tick leave the plane as it is. -/
theorem Sending.updateGates (h : Sending s rest) : Sending (updateGates { s with rejectedThisTick := false }) rest := by
  rw [updateGates_frame]
  exact ⟨h.enabled, h.linked, h.silent, h.sending, h.left⟩

/-- Such a tick updates the gates and sends a chunk (R171, R178). -/
theorem tick_of_sending (h : Sending s rest) :
    tick s = endTick (sendChunk (Machine.updateGates { s with rejectedThisTick := false })) := by
  have hlive : s.live = true := by rw [State.live, h.enabled, h.linked]; rfl
  have hrx : rxPhase { s with rejectedThisTick := false } = { s with rejectedThisTick := false } :=
    rxPhase_of_no_byte h.silent
  rw [tick, if_pos hlive, hrx, txPhase, if_pos h.updateGates.sending]

theorem Sending.getElem? (h : Sending s (c :: rest)) : s.txBuf[s.txChunk]? = some c := by
  rw [← List.head?_drop, h.left, List.head?_cons]

theorem Sending.length (h : Sending s (c :: rest)) : s.txChunk + 1 + rest.length = s.txBuf.length := by
  have hlen := congrArg List.length h.left
  rw [List.length_drop, List.length_cons] at hlen
  omega

/-- The tick sends the next chunk, and the plane goes on (R184). -/
theorem tick_of_sending_more {d : Chunk} (h : Sending s (c :: d :: rest)) :
    Sending (tick s) (d :: rest) ∧ (tick s).txChunk = s.txChunk + 1 ∧ (tick s).txQueue = s.txQueue ++ wireBytes c := by
  have hu := h.updateGates
  have hlen := hu.length
  rw [List.length_cons] at hlen
  obtain ⟨gates, hsent⟩ := sendChunk_of_more hu.getElem? (by omega)
  rw [tick_of_sending h, hsent]
  refine ⟨⟨hu.enabled, hu.linked, hu.silent, hu.sending, ?_⟩, ?_, ?_⟩
  · rw [endTick_txBuf, endTick_txChunk, ← List.drop_drop, hu.left, List.drop_one, List.tail_cons]
  · rw [endTick_txChunk, updateGates_frame]
  · rw [endTick_txQueue, updateGates_txQueue]

/-- The tick sends the last chunk, and the plane has departed (R179, R185). -/
theorem tick_of_sending_last (h : Sending s [c]) :
    (tick s).sending = false ∧ (tick s).events.getLsbD 18 = true ∧ (tick s).txQueue = s.txQueue ++ wireBytes c := by
  have hu := h.updateGates
  obtain ⟨gates, hsent⟩ := sendChunk_of_last hu.getElem? hu.length
  rw [tick_of_sending h, hsent]
  refine ⟨rfl, ?_, ?_⟩
  · rw [endTick_events, BitVec.getLsbD_or]
    exact Bool.or_true _
  · rw [endTick_txQueue, updateGates_txQueue]

end

/-! ### The whole plane -/

/-- The plane is still being sent, one chunk further with each tick, until the tick that sends its last chunk. -/
theorem iterate_tick_of_sending {c : Chunk} {rest : List Chunk} {s : State} (h : Sending s (c :: rest)) :
    (∀ k ≤ rest.length, (tick^[k] s).sending = true ∧ (tick^[k] s).txChunk = s.txChunk + k) ∧
      (tick^[rest.length + 1] s).sending = false ∧ (tick^[rest.length + 1] s).events.getLsbD 18 = true ∧
      (tick^[rest.length + 1] s).txQueue = s.txQueue ++ (c :: rest).flatMap wireBytes := by
  induction rest generalizing c s with
  | nil =>
    obtain ⟨hsent, hevent, hqueue⟩ := tick_of_sending_last h
    refine ⟨fun k hk => ?_, hsent, hevent, by simpa using hqueue⟩
    obtain rfl := Nat.le_zero.mp hk
    exact ⟨h.sending, rfl⟩
  | cons d rest ih =>
    obtain ⟨hnext, hchunk, hqueue⟩ := tick_of_sending_more h
    obtain ⟨hduring, hsent, hevent, hall⟩ := ih hnext
    refine ⟨fun k hk => ?_, hsent, hevent, ?_⟩
    · cases k with
      | zero => exact ⟨h.sending, rfl⟩
      | succ k =>
        obtain ⟨hk1, hk2⟩ := hduring k (Nat.le_of_succ_le_succ hk)
        exact ⟨hk1, hk2.trans (by rw [hchunk]; omega)⟩
    · rw [List.flatMap_cons, ← List.append_assoc, ← hqueue]
      exact hall

/-- Settles O49: `iterate_tick_of_sending`, from the chunk at `txChunk` on. -/
theorem planeLeavesInOrder : Obligations.PlaneLeavesInOrder := by
  intro s henable hlink hfifo hsending hlt
  obtain ⟨c, rest, hleft⟩ : ∃ c rest, s.txBuf.drop s.txChunk = c :: rest := ⟨_, _, List.drop_eq_getElem_cons hlt⟩
  have hs : Sending s (c :: rest) := ⟨henable, hlink, hfifo, hsending, hleft⟩
  have hlen := hs.length
  obtain ⟨hduring, hdone⟩ := iterate_tick_of_sending hs
  rw [show s.txBuf.length - s.txChunk = rest.length + 1 by omega, hleft]
  exact ⟨fun k hk => hduring k (by omega), hdone⟩

end Sys2Proof.Machine
end

section
/-! PROOF of O39: the dock of an answer on a Master. `dock_of_fitting` says for both roles how the dock of a plane that
passes the tests of 45_gate.md R197 goes on; on a Master it is `masterDock`, which the status of the gate decides. -/

namespace Sys2Proof.Machine

/-! ### A plane outside PWM (45_gate.md R197) -/

/-- `analyze` over a chunk sequence that is a plane makes the checks of R120 on it. -/
theorem analyzePlane_of_plane (supported : List Byte) {first : Chunk} {mid : List Chunk} {last : Chunk}
    (hfirst : first.toNat / 256 = 2) (hmid : ∀ c ∈ mid, c.toNat < 768) (hlast : last.toNat / 256 = 3) :
    analyzePlane supported (first :: (mid ++ [last])) = checkPlane supported (first :: (mid ++ [last])) := by
  have hsize : totalSize ((first :: (mid ++ [last])).map some) = some (.ok (mid.length + 2)) := by
    simpa using totalSize_plane first mid last [] hfirst hmid hlast
  have htake : ((first :: (mid ++ [last])).map some).take (mid.length + 2) = (first :: (mid ++ [last])).map some :=
    List.take_of_length_le (by simp)
  rw [analyzePlane, analyzeCells, hsize]
  dsimp only
  rw [htake, List.filterMap_map, Function.id_comp, List.filterMap_some, Option.getD_some]

/-- The Start chunk of an ID is the one the machine makes (R93). -/
theorem startChunk_eq_encodeChunk (id : Byte) : startChunk id = encodeChunk id .start := rfl

theorem planeID_planeOf (id : Byte) (body : List Chunk) : planeID (planeOf id body) = id := by
  rw [planeOf, planeID, List.headD_cons, startChunk_eq_encodeChunk, byteOf_encodeChunk]

theorem planeOf_length (id : Byte) (body : List Chunk) : (planeOf id body).length = body.length + 2 := by
  rw [planeOf_eq_makePlane, makePlane_length]

/-- The plane of a supported ID around some segments passes `analyze` (R120). -/
theorem analyzePlane_of_segments {supported : List Byte} {id : Byte} (hid : id ∈ supported)
    (segments : List (Byte × List Byte)) :
    ∃ info, analyzePlane supported (planeOf id (segments.flatMap fun p => segmentOf p.1 p.2)) = .ok info := by
  have hstructure := structure_of_segments segments
  generalize segments.flatMap (fun p => segmentOf p.1 p.2) = body at hstructure ⊢
  have hmid : ∀ c ∈ body, c.toNat < 768 := fun c hc =>
    Nat.lt_of_not_le fun hle => hstructure (.inl ⟨c, hc, by omega⟩)
  have hsum : sum8 body < 256 := Nat.mod_lt _ (by decide)
  have hcheck : (BitVec.ofNat 16 (768 + sum8 body)).toNat = 768 + sum8 body := Nat.mod_eq_of_lt (by omega)
  have hstart : (startChunk id).toNat = 512 + id.toNat := encodeChunk_toNat id .start
  have hbyte : BitVec.ofNat 8 (startChunk id).toNat = id := by
    rw [← planeID_cons (body ++ [BitVec.ofNat 16 (768 + sum8 body)])]
    exact planeID_planeOf id body
  have := id.isLt
  rw [planeOf, analyzePlane_of_plane supported (by omega) hmid (by omega), checkPlane_eq supported hmid,
    if_neg (by omega), if_neg (by rw [hbyte]; exact not_not.mpr hid), if_neg hstructure]
  exact ⟨_, rfl⟩

/-! ### The dock -/

section
variable {s : State} {g : Gate} {segments : List (Byte × List Byte)}

/-- A plane that its gate takes is docked as the role says (R197). -/
theorem dock_of_fitting (hd : DistinctGates s) (hg : g ∈ s.gates) (h8 : g.conf.gateID ≠ 8)
    (hid : g.conf.gateID ∈ s.params.supported)
    (hlen : (segments.flatMap fun p => segmentOf p.1 p.2).length + 2 ≤ g.conf.maxSizeOfPlane)
    (htypes : ParamsOK (segments.map (·.2)) g.conf.arriveTypes) :
    dock (planeOf g.conf.gateID (segments.flatMap fun p => segmentOf p.1 p.2)) s =
      if s.params.role = .master then masterDock g (segments.map (·.2)) s
      else slaveDock g (segments.map (·.2)) s := by
  obtain ⟨info, hinfo⟩ := analyzePlane_of_segments hid segments
  have hparams : planeParams (planeOf g.conf.gateID (segments.flatMap fun p => segmentOf p.1 p.2)) = segments.map (·.2) :=
    planeParams_of_segments _ _ segments
  have htypesOK : typesOK (segments.map (·.2)) g.conf.arriveTypes = true := (typesOK_iff _ _).mpr htypes
  rw [dock, planeID_planeOf, if_neg h8, gate?_of_mem hd hg]
  dsimp only
  rw [dockAtGate, hinfo, hparams, planeOf_length]
  dsimp only
  rw [if_neg (Nat.not_lt.mpr hlen), if_neg (by rw [htypesOK]; decide)]
  cases s.params.role <;> rfl

theorem masterDock_of_awaiting (hstatus : g.status = .awaitingArrival) (L : List (List Byte)) :
    masterDock g L s = (.passed, (s.updateGate g.conf.gateID (Gate.docked L)).report .answerAvailable) :=
  if_neg (not_not.mpr hstatus)

theorem masterDock_of_not_awaiting (hstatus : g.status ≠ .awaitingArrival) (L : List (List Byte)) :
    masterDock g L s = (.unecessary, s.report .unsolicitedPlane) := if_pos hstatus

/-- GATE_DOCK docks the plane that its range holds (R208). -/
theorem execGateDock_of_planeAt {id : Byte} {body : List Chunk} (h : PlaneAt s s.arg0 id body) :
    execGateDock s = finish (dock (planeOf id body) s).1 (dock (planeOf id body) s).2 := withPlane_of_scansAs _ h

end

/-- Settles O39: GATE_DOCK is the dock of the plane, which a Master ends by the status of the gate. -/
theorem gateDockAnswerOnMaster : Obligations.GateDockAnswerOnMaster := by
  rintro s g segments L hd hg hrole h8 hid rfl hplane hlen htypes
  have hdock := dock_of_fitting hd hg h8 hid hlen htypes
  rw [if_pos hrole] at hdock
  have hexec : exec .gateDock s = _ := execGateDock_of_planeAt hplane
  rw [hdock] at hexec
  refine ⟨fun hawaits => ?_, fun hawaits => ?_⟩
  · rw [hexec, masterDock_of_awaiting hawaits]
    rfl
  · rw [hexec, masterDock_of_not_awaiting hawaits]
    rfl

end Sys2Proof.Machine
end

section
/-! PROOF of O5 to O8: the chunk codec commands. The operands are said once, as numbers; each command then has one equation
for what it takes and one for what it refuses, and the round trips of R105 run the second command on what the first wrote. -/

namespace Sys2Proof.Machine

/-! ### Operands and results as numbers (30_encoding.md R86, R87) -/

@[simp] theorem argByte_toNat (v : Word) : (argByte v).toNat = v.toNat % 256 := BitVec.toNat_setWidth 8 v

theorem argChunk_of_le {v : Word} (h : v.toNat ≤ 1023) : ∃ c, argChunk v = some c ∧ c.toNat = v.toNat :=
  ⟨v.setWidth 16, if_pos h, (BitVec.toNat_setWidth 16 v).trans (Nat.mod_eq_of_lt (by omega))⟩

theorem argChunk_of_gt {v : Word} (h : 1023 < v.toNat) : argChunk v = none := if_neg (Nat.not_le.mpr h)

theorem ChunkType.exists_index {n : Nat} (h : n ≤ 3) : ∃ t : ChunkType, t.index = n := by
  interval_cases n
  exacts [⟨.byte, rfl⟩, ⟨.div, rfl⟩, ⟨.start, rfl⟩, ⟨.check, rfl⟩]

theorem argChunkType_of_index {v : Word} {t : ChunkType} (h : t.index = v.toNat) : argChunkType v = some t := by
  rw [argChunkType, ← h]
  cases t <;> rfl

theorem argChunkType_of_gt {v : Word} (h : 3 < v.toNat) : argChunkType v = none := by
  unfold argChunkType
  split
  case h_5 => rfl
  all_goals omega

/-- A value in a RET register, zero-extended, is its number (R87). -/
theorem setWidth_eq_ofNat_of_toNat {w n : Nat} {x : BitVec w} (h : x.toNat = n) : x.setWidth 32 = BitVec.ofNat 32 n := by
  rw [← BitVec.ofNat_toNat, h]

/-! ### The wire form (40_chunk.md R100) -/

theorem toWire_toNat (c : Chunk) : (toWire c).1.toNat = c.toNat / 256 ∧ (toWire c).2.toNat = c.toNat % 256 := by
  obtain ⟨h0, h1⟩ := List.cons_eq_cons.mp (toWire_eq_wireBytes c)
  rw [h0, List.head_eq_of_cons_eq h1, BitVec.toNat_ofNat, BitVec.toNat_ofNat]
  have := c.isLt
  omega

theorem fromWire_of_le {b0 b1 : Byte} (h : b0.toNat ≤ 3) :
    ∃ c, fromWire b0 b1 = some c ∧ c.toNat = b0.toNat * 256 + b1.toNat :=
  ⟨_, if_pos h, Nat.mod_eq_of_lt (by omega)⟩

theorem fromWire_of_gt {b0 b1 : Byte} (h : 3 < b0.toNat) : fromWire b0 b1 = none := if_neg (Nat.not_le.mpr h)

/-! ### The commands -/

section
variable {s : State}

/-- CHUNK_ENCODE of one of the four types (R101). -/
theorem execChunkEncode_of_le (h : s.arg1.toNat ≤ 3) : execChunkEncode s = finish .passed
    { s with ret0 := BitVec.ofNat 32 (256 * s.arg1.toNat + s.arg0.toNat % 256) } := by
  obtain ⟨t, ht⟩ := ChunkType.exists_index h
  have hchunk : (encodeChunk (argByte s.arg0) t).toNat = 256 * s.arg1.toNat + s.arg0.toNat % 256 := by
    rw [encodeChunk_toNat, argByte_toNat, ht]
  rw [execChunkEncode, argChunkType_of_index ht]
  dsimp only
  rw [setWidth_eq_ofNat_of_toNat hchunk]

theorem execChunkEncode_of_gt (h : 3 < s.arg1.toNat) : execChunkEncode s = finish .failed s := by
  rw [execChunkEncode, argChunkType_of_gt h]

/-- CHUNK_DECODE of a chunk (R102). -/
theorem execChunkDecode_of_le (h : s.arg0.toNat ≤ 1023) : execChunkDecode s = finish .passed
    { s with
      ret0 := BitVec.ofNat 32 (s.arg0.toNat / 256)
      ret1 := BitVec.ofNat 32 (s.arg0.toNat % 256)
      ret2 := BitVec.ofNat 32 (s.arg0.toNat - s.arg0.toNat % 256) } := by
  obtain ⟨c, hc, hv⟩ := argChunk_of_le h
  have hbyte : (byteOf c).setWidth 32 = BitVec.ofNat 32 (s.arg0.toNat % 256) :=
    setWidth_eq_ofNat_of_toNat (by rw [byteOf_toNat, hv])
  have hband : s.arg0 - BitVec.ofNat 32 (s.arg0.toNat % 256) = BitVec.ofNat 32 (s.arg0.toNat - s.arg0.toNat % 256) := by
    rw [← BitVec.ofNat_sub_ofNat_of_le _ _ (by omega) (Nat.mod_le ..), BitVec.ofNat_toNat, BitVec.setWidth_eq]
  rw [execChunkDecode, hc]
  dsimp only
  rw [hbyte, hband, hv, retNat]

theorem execChunkDecode_of_gt (h : 1023 < s.arg0.toNat) : execChunkDecode s = finish .incompatibility s := by
  rw [execChunkDecode, argChunk_of_gt h]

/-- CHUNK_TOWIRE of a chunk (R103). -/
theorem execChunkToWire_of_le (h : s.arg0.toNat ≤ 1023) : execChunkToWire s = finish .passed
    { s with
      ret0 := BitVec.ofNat 32 (s.arg0.toNat / 256)
      ret1 := BitVec.ofNat 32 (s.arg0.toNat % 256) } := by
  obtain ⟨c, hc, hv⟩ := argChunk_of_le h
  obtain ⟨h0, h1⟩ := toWire_toNat c
  rw [hv] at h0 h1
  rw [execChunkToWire, hc]
  dsimp only
  rw [setWidth_eq_ofNat_of_toNat h0, setWidth_eq_ofNat_of_toNat h1]

theorem execChunkToWire_of_gt (h : 1023 < s.arg0.toNat) : execChunkToWire s = finish .incompatibility s := by
  rw [execChunkToWire, argChunk_of_gt h]

/-- CHUNK_FROMWIRE of two bytes that are a chunk's (R104). -/
theorem execChunkFromWire_of_le (h : s.arg0.toNat % 256 ≤ 3) : execChunkFromWire s = finish .passed
    { s with ret0 := BitVec.ofNat 32 (s.arg0.toNat % 256 * 256 + s.arg1.toNat % 256) } := by
  rw [← argByte_toNat] at h
  obtain ⟨c, hc, hv⟩ := fromWire_of_le (b1 := argByte s.arg1) h
  rw [argByte_toNat, argByte_toNat] at hv
  rw [execChunkFromWire, hc]
  dsimp only
  rw [setWidth_eq_ofNat_of_toNat hv]

theorem execChunkFromWire_of_gt (h : 3 < s.arg0.toNat % 256) :
    execChunkFromWire s = finish .incompatibility s := by
  rw [← argByte_toNat] at h
  rw [execChunkFromWire, fromWire_of_gt h]

end

/-- Settles O5: the two equations of CHUNK_ENCODE. -/
theorem chunkEncode : Obligations.ChunkEncode := fun _ => ⟨execChunkEncode_of_le, execChunkEncode_of_gt⟩

/-- Settles O6: the two equations of CHUNK_DECODE. -/
theorem chunkDecode : Obligations.ChunkDecode := fun _ => ⟨execChunkDecode_of_le, execChunkDecode_of_gt⟩

/-- Settles O7: the equations of CHUNK_TOWIRE and of CHUNK_FROMWIRE. -/
theorem chunkWireForms : Obligations.ChunkWireForms := fun _ =>
  ⟨execChunkToWire_of_le, execChunkToWire_of_gt, execChunkFromWire_of_le, execChunkFromWire_of_gt⟩

/-- Settles O8: the second command takes what the first returned, and a number below 1024 is cut at 256 and put together
again. -/
theorem chunkRoundTrip : Obligations.ChunkRoundTrip := by
  intro s
  refine ⟨fun htype => ?_, fun hchunk => ?_⟩
  · have hret : (BitVec.ofNat 32 (256 * s.arg1.toNat + s.arg0.toNat % 256)).toNat =
        256 * s.arg1.toNat + s.arg0.toNat % 256 := Nat.mod_eq_of_lt (by omega)
    have htypeBack : (256 * s.arg1.toNat + s.arg0.toNat % 256) / 256 = s.arg1.toNat := by omega
    have hbyteBack : (256 * s.arg1.toNat + s.arg0.toNat % 256) % 256 = s.arg0.toNat % 256 := by omega
    refine ⟨_, _, execChunkEncode_of_le htype, execChunkDecode_of_le (hret.trans_le (by omega)), rfl, ?_, ?_⟩
    · dsimp only
      rw [hret, htypeBack, BitVec.ofNat_toNat, BitVec.setWidth_eq]
    · dsimp only
      rw [hret, hbyteBack]
  · have hret0 : (BitVec.ofNat 32 (s.arg0.toNat / 256)).toNat = s.arg0.toNat / 256 := Nat.mod_eq_of_lt (by omega)
    have hret1 : (BitVec.ofNat 32 (s.arg0.toNat % 256)).toNat = s.arg0.toNat % 256 := Nat.mod_eq_of_lt (by omega)
    have hchunkBack : s.arg0.toNat / 256 % 256 * 256 + s.arg0.toNat % 256 % 256 = s.arg0.toNat := by omega
    have hlegal : (BitVec.ofNat 32 (s.arg0.toNat / 256)).toNat % 256 ≤ 3 := by omega
    refine ⟨_, _, execChunkToWire_of_le hchunk, execChunkFromWire_of_le hlegal, rfl, ?_⟩
    dsimp only
    rw [hret0, hret1, hchunkBack, BitVec.ofNat_toNat, BitVec.setWidth_eq]

end Sys2Proof.Machine
end

section
/-! PROOF of O9 to O12: the ScalarCodec commands. A type tag is said once as its number (41_scalar.md R107), and bytes as the
digits of a number in base 256. SCALAR_TOBYTES and SCALAR_TODATA make the same first checks (`withScalarType`); R115 then
follows from R110 and R111, and from how digits and sign extension invert each other on the representable values. -/

namespace Sys2Proof.Machine

/-! ### Type tags and their numbers (R107) -/

/-- The number of a type tag, in the table of R107. -/
def tagNumber : TypeTag → Nat
  | .bool => 0
  | .u8 => 1
  | .i8 => 2
  | .u16 => 3
  | .i16 => 4
  | .u32 => 5
  | .i32 => 6
  | .u64 => 7
  | .i64 => 8
  | .f32 => 9
  | .f64 => 10
  | .text => 11

theorem tagNumber_lt_iff {t : TypeTag} : tagNumber t < 11 ↔ t ≠ .text := by cases t <;> decide

theorem tagNumber_eq_zero_iff {t : TypeTag} : tagNumber t = 0 ↔ t = .bool := by cases t <;> decide

@[simp] theorem widthOfTag_tagNumber (t : TypeTag) : widthOfTag (tagNumber t) = tagWidth t := by cases t <;> rfl

@[simp] theorem signedTag_tagNumber (t : TypeTag) : signedTag (tagNumber t) = tagSigned t := by cases t <;> rfl

theorem exists_tagNumber {n : Nat} (h : n ≤ 11) : ∃ t, tagNumber t = n := by
  interval_cases n
  exacts [⟨.bool, rfl⟩, ⟨.u8, rfl⟩, ⟨.i8, rfl⟩, ⟨.u16, rfl⟩, ⟨.i16, rfl⟩, ⟨.u32, rfl⟩, ⟨.i32, rfl⟩, ⟨.u64, rfl⟩,
    ⟨.i64, rfl⟩, ⟨.f32, rfl⟩, ⟨.f64, rfl⟩, ⟨.text, rfl⟩]

theorem argTypeTag_of_tagNumber {v : Word} {t : TypeTag} (h : tagNumber t = v.toNat) : argTypeTag v = some t := by
  rw [argTypeTag, ← h]
  cases t <;> rfl

theorem argTypeTag_of_gt {v : Word} (h : 11 < v.toNat) : argTypeTag v = none := by
  unfold argTypeTag
  split
  case h_13 => rfl
  all_goals omega

/-- Every kind but Text is one, two, four or eight bytes wide. -/
theorem widthOfTag_cases {n : Nat} (h : n < 11) :
    widthOfTag n = 1 ∨ widthOfTag n = 2 ∨ widthOfTag n = 4 ∨ widthOfTag n = 8 := by
  interval_cases n <;> decide

/-! ### Bytes as digits in base 256 (R108) -/

/-- The `w` low-order bytes of a number, the first the least significant. -/
def lowBytes (n w : Nat) : List Byte := (List.range w).map fun i => BitVec.ofNat 8 (n / 256 ^ i)

@[simp] theorem lowBytes_length (n w : Nat) : (lowBytes n w).length = w := by simp [lowBytes]

theorem lowBytes_succ (n w : Nat) : lowBytes n (w + 1) = BitVec.ofNat 8 n :: lowBytes (n / 256) w := by
  simp [lowBytes, List.range_succ_eq_map, Function.comp_def, Nat.div_div_eq_div_mul, Nat.pow_succ']

theorem toBytesLE_eq_lowBytes (val : BitVec 64) (w : Nat) : toBytesLE val w = lowBytes val.toNat w := by
  refine List.map_congr_left fun i _ => ?_
  rw [BitVec.extractLsb', Nat.shiftRight_eq_div_pow, Nat.pow_mul]

theorem ofBytesLE_eq_littleEndian (B : List Byte) : ofBytesLE B = littleEndian B := by
  induction B with
  | nil => rfl
  | cons b B ih => rw [ofBytesLE, ih, littleEndian, littleEndian, List.foldr_cons]

theorem littleEndian_cons (b : Byte) (B : List Byte) : littleEndian (b :: B) = b.toNat + 256 * littleEndian B := rfl

theorem littleEndian_lt (B : List Byte) : littleEndian B < 2 ^ (8 * B.length) := by
  induction B with
  | nil => decide
  | cons b B ih =>
    have := b.isLt
    rw [littleEndian_cons, List.length_cons, Nat.mul_succ, Nat.pow_add]
    omega

theorem littleEndian_lowBytes (n w : Nat) : littleEndian (lowBytes n w) = n % 2 ^ (8 * w) := by
  induction w generalizing n with
  | zero => exact (Nat.mod_one n).symm
  | succ w ih =>
    rw [lowBytes_succ, littleEndian_cons, ih, BitVec.toNat_ofNat, Nat.mul_succ, Nat.add_comm (8 * w), Nat.pow_add,
      Nat.mod_mul]

/-! ### Values and their extension (R109, R111) -/

/-- The number SCALAR_TOBYTES serializes for a tag number and the two words of a value (R109). -/
def scalarNumber (tag : Nat) (lo hi : Word) : Nat :=
  if tag = 0 then (if lo = 0 ∧ hi = 0 then 0 else 1) else hi.toNat * 2 ^ 32 + lo.toNat

theorem argValue64_toNat (lo hi : Word) : (argValue64 lo hi).toNat = hi.toNat * 2 ^ 32 + lo.toNat := by
  rw [argValue64, BitVec.toNat_append, ← Nat.shiftLeft_add_eq_or_of_lt lo.isLt, Nat.shiftLeft_eq]

theorem argValue64_eq_zero_iff (lo hi : Word) : argValue64 lo hi = 0 ↔ lo = 0 ∧ hi = 0 := by
  simp only [BitVec.toNat_eq, argValue64_toNat, BitVec.ofNat_eq_ofNat, BitVec.toNat_ofNat]
  omega

theorem scalarValue_toNat (t : TypeTag) (lo hi : Word) :
    (scalarValue t (argValue64 lo hi)).toNat = scalarNumber (tagNumber t) lo hi := by
  by_cases ht : t = .bool
  · subst ht
    rw [scalarValue, scalarNumber, tagNumber, if_pos rfl]
    simp only [argValue64_eq_zero_iff]
    split <;> rfl
  · rw [scalarNumber, if_neg (mt tagNumber_eq_zero_iff.mp ht), ← argValue64_toNat]
    cases t
    case bool => exact absurd rfl ht
    all_goals rfl

/-- Sign extension to 64 bits, as a number. -/
theorem signExtend_ofNat {w raw : Nat} (hw : w ≤ 64) (h : raw < 2 ^ w) :
    (BitVec.ofNat w raw).signExtend 64 =
      BitVec.ofNat 64 (if 2 ^ (w - 1) ≤ raw then raw + 2 ^ 64 - 2 ^ w else raw) := by
  have hle : 2 ^ w ≤ 2 ^ 64 := Nat.pow_le_pow_right (by decide) hw
  apply BitVec.eq_of_toNat_eq
  rw [BitVec.toNat_signExtend, BitVec.toNat_setWidth, BitVec.msb_eq_decide, BitVec.toNat_ofNat, BitVec.toNat_ofNat,
    Nat.mod_eq_of_lt h, Nat.mod_eq_of_lt (h.trans_le hle)]
  by_cases hneg : 2 ^ (w - 1) ≤ raw
  · rw [if_pos (decide_eq_true hneg), if_pos hneg]
    omega
  · rw [if_neg (by simpa using hneg), if_neg hneg]
    omega

/-- The machine's extension of a raw value is that of R111. -/
theorem extend64_eq (t : TypeTag) {raw : Nat} (h : raw < 2 ^ (8 * tagWidth t)) :
    extend64 (tagSigned t) (tagWidth t) raw = BitVec.ofNat 64 (extended (tagNumber t) raw) := by
  have hwidth : 8 * tagWidth t ≤ 64 := by cases t <;> decide
  rw [extend64, extended, signedTag_tagNumber, widthOfTag_tagNumber]
  by_cases hsigned : tagSigned t = true
  · simp only [hsigned, if_true, true_and]
    exact signExtend_ofNat hwidth h
  · simp only [hsigned, Bool.false_eq_true, if_false, false_and]

/-- The two words of a 64-bit value in the RET registers (R111). -/
theorem extractLsb'_ofNat_words (n : Nat) :
    (BitVec.ofNat 64 n).extractLsb' 0 32 = BitVec.ofNat 32 n ∧
      (BitVec.ofNat 64 n).extractLsb' 32 32 = BitVec.ofNat 32 (n / 2 ^ 32) := by
  simp only [BitVec.toNat_eq, BitVec.extractLsb'_toNat, BitVec.toNat_ofNat, Nat.shiftRight_eq_div_pow]
  omega

/-- A value representable in a kind is the extension of its low-order bytes (R115). -/
theorem extended_of_representable {tag v : Nat} (htag : tag < 11) (hv : v < 2 ^ 64) (h : Representable tag v) :
    extended tag (v % 2 ^ (8 * widthOfTag tag)) = v := by
  unfold Representable at h
  unfold extended
  by_cases hbool : tag = 0
  · subst hbool
    rw [if_pos rfl] at h
    rw [if_neg (fun hc => Bool.false_ne_true hc.1)]
    exact Nat.mod_eq_of_lt (h.trans_lt (by decide))
  · rw [if_neg hbool] at h
    by_cases hsigned : signedTag tag = true
    · rw [if_pos hsigned] at h
      simp only [hsigned, true_and]
      rcases widthOfTag_cases htag with hw | hw | hw | hw <;> rw [hw] at h ⊢ <;> split <;> omega
    · rw [if_neg hsigned] at h
      rw [if_neg (fun hc => hsigned hc.1), Nat.mod_eq_of_lt h]

/-- A representable value is stored as it is: Bool represents 0 and 1 alone (R109, R115). -/
theorem scalarNumber_of_representable {tag : Nat} {lo hi : Word}
    (h : Representable tag (hi.toNat * 2 ^ 32 + lo.toNat)) :
    scalarNumber tag lo hi = hi.toNat * 2 ^ 32 + lo.toNat := by
  unfold scalarNumber
  by_cases hbool : tag = 0
  · rw [Representable, if_pos hbool] at h
    rw [if_pos hbool]
    simp only [BitVec.toNat_eq, BitVec.ofNat_eq_ofNat, BitVec.toNat_ofNat]
    split <;> omega
  · exact if_neg hbool

/-! ### The commands -/

theorem holds_of_stored {w : Nat} {m m' : Memory w} {a : Nat} {vs : List (BitVec w)} (h : Stored m m' a vs) :
    Holds m' a vs := fun i hi => by rw [h, if_pos (by omega), Nat.add_sub_cancel_left]

section
variable {s : State} {t : TypeTag} {go : TypeTag → Answer}

/-- The first checks of SCALAR_TOBYTES and of SCALAR_TODATA: the range, and the type tag (R110, R111). -/
def withScalarType (s : State) (go : TypeTag → Answer) : Answer :=
  if (argRange s.arg3).fits s.params.bwmSize = false then finish .failed s
  else
    match argTypeTag s.arg0 with
    | none => finish .failed s
    | some .text => finish .bypassed s
    | some t => go t

theorem withScalarType_of_bad (h : ¬ InRange s.arg3 s.params.bwmSize ∨ 11 < s.arg0.toNat) :
    withScalarType s go = finish .failed s := by
  rw [withScalarType]
  split
  · rfl
  · next hfit =>
    rw [fits_eq_false_iff] at hfit
    rw [argTypeTag_of_gt (h.resolve_left hfit)]

theorem withScalarType_of_inRange (hin : InRange s.arg3 s.params.bwmSize) (ht : tagNumber t = s.arg0.toNat) :
    withScalarType s go = if t = .text then finish .bypassed s else go t := by
  rw [withScalarType, if_neg (by rw [fits_eq_false_iff]; exact not_not.mpr hin), argTypeTag_of_tagNumber ht]
  cases t <;> rfl

theorem withScalarType_of_text (hin : InRange s.arg3 s.params.bwmSize) (h : s.arg0.toNat = 11) :
    withScalarType s go = finish .bypassed s := by
  rw [withScalarType_of_inRange (t := .text) hin h.symm, if_pos rfl]

theorem withScalarType_of_lt (hin : InRange s.arg3 s.params.bwmSize) (ht : tagNumber t = s.arg0.toNat)
    (hlt : s.arg0.toNat < 11) : withScalarType s go = go t := by
  rw [withScalarType_of_inRange hin ht, if_neg (tagNumber_lt_iff.mp (by omega))]

theorem execScalarToBytes_eq : execScalarToBytes s = withScalarType s fun t =>
    storeIfFits s.arg3 (toBytesLE (scalarValue t (argValue64 s.arg1 s.arg2)) (tagWidth t)) s := by
  simp only [storeIfFits, storeBwm, toBytesLE_eq_lowBytes, lowBytes_length]
  simp only [execScalarToBytes, toBytesLE_eq_lowBytes]
  rfl

theorem execScalarToData_eq : execScalarToData s = withScalarType s fun t =>
    if (argRange s.arg3).len < tagWidth t then finish .failed s
    else reading (s.bwm.readRange (argRange s.arg3).addr (tagWidth t)) fun B => scalarOut t B s := rfl

/-- SCALAR_TODATA once its bytes are read (R111). -/
theorem scalarOut_eq {B : List Byte} (hB : B.length = tagWidth t) :
    scalarOut t B s =
      if tagNumber t = 0 ∧ 1 < littleEndian B then finish .failed s
      else finish .passed
        { s with
          ret0 := BitVec.ofNat 32 (extended (tagNumber t) (littleEndian B))
          ret1 := BitVec.ofNat 32 (extended (tagNumber t) (littleEndian B) / 2 ^ 32) } := by
  obtain ⟨hlo, hhi⟩ := extractLsb'_ofNat_words (extended (tagNumber t) (littleEndian B))
  have hext := extend64_eq t (hB ▸ littleEndian_lt B)
  simp only [scalarOut, ofBytesLE_eq_littleEndian, hext, hlo, hhi, tagNumber_eq_zero_iff, gt_iff_lt]

end

/-- Settles O11: the width of the type whose number the operand is. -/
theorem scalarGetArraySize : Obligations.ScalarGetArraySize := by
  intro s
  have hexec : exec .scalarGetArraySize s = execScalarGetArraySize s := rfl
  rw [hexec, execScalarGetArraySize]
  refine ⟨fun hle => ?_, fun hgt => ?_⟩
  · obtain ⟨t, ht⟩ := exists_tagNumber hle
    rw [argTypeTag_of_tagNumber ht, ← ht, widthOfTag_tagNumber]
    rfl
  · rw [argTypeTag_of_gt hgt]
    rfl

/-- Settles O9: after the first checks the command stores the low-order bytes where they fit (`storeIfFits_cases`). -/
theorem scalarToBytes : Obligations.ScalarToBytes := by
  intro s
  have hexec : exec .scalarToBytes s = _ := execScalarToBytes_eq
  have hstore (hin : InRange s.arg3 s.params.bwmSize) (hlt : s.arg0.toNat < 11) :
      exec .scalarToBytes s = storeIfFits s.arg3
        (lowBytes (scalarNumber s.arg0.toNat s.arg1 s.arg2) (widthOfTag s.arg0.toNat)) s := by
    obtain ⟨t, ht⟩ := exists_tagNumber hlt.le
    rw [hexec, withScalarType_of_lt hin ht hlt, toBytesLE_eq_lowBytes, scalarValue_toNat, ← ht, widthOfTag_tagNumber]
  refine ⟨fun hbad => hexec.trans (withScalarType_of_bad hbad),
    fun hin htext => hexec.trans (withScalarType_of_text hin htext), fun hin hlt hshort => ?_, fun hin hlt hfits => ?_⟩
  · exact (storeIfFits_cases (hstore hin hlt)).1 (by rwa [lowBytes_length])
  · have hstored := (storeIfFits_cases (hstore hin hlt)).2 (by rwa [lowBytes_length])
    rwa [lowBytes_length] at hstored

/-- Settles O10: after the first checks the command reads the bytes of its width and extends their value. -/
theorem scalarToData : Obligations.ScalarToData := by
  intro s
  have hexec : exec .scalarToData s = _ := execScalarToData_eq
  refine ⟨fun hbad => hexec.trans (withScalarType_of_bad hbad),
    fun hin htext => hexec.trans (withScalarType_of_text hin htext), fun hin hlt => ?_, fun hin hlt => ?_,
    fun hin hlt => ?_⟩
  all_goals
    obtain ⟨t, ht⟩ := exists_tagNumber hlt.le
    rw [hexec, withScalarType_of_lt hin ht hlt, argRange_len, argRange_addr, ← ht, widthOfTag_tagNumber]
  · exact fun hshort => if_pos hshort
  · intro hfits B hB hheld
    rw [if_neg (Nat.not_lt.mpr hfits), ← hB, readRange_of_holds _ _ _ hheld]
    exact scalarOut_eq hB
  · intro hfits hunwritten
    rw [if_neg (Nat.not_lt.mpr hfits), (Memory.readRange_eq_none _ _ _).mpr hunwritten]
    rfl

/-- Settles O12: SCALAR_TODATA finds the bytes that SCALAR_TOBYTES stored, and their value, extended, is the value they
were made from. -/
theorem scalarRoundTrip : Obligations.ScalarRoundTrip := by
  intro s hin hlt hfits hrep
  obtain ⟨-, -, -, hpassed⟩ := scalarToBytes s
  obtain ⟨m, hexec, hstored⟩ := hpassed hin hlt hfits
  change Stored s.bwm m _ (lowBytes (scalarNumber s.arg0.toNat s.arg1 s.arg2) _) at hstored
  rw [scalarNumber_of_representable hrep] at hstored
  obtain ⟨-, -, -, hread, -⟩ := scalarToData
    { s with result := .passed, bwm := m, ret0 := BitVec.ofNat 32 (widthOfTag s.arg0.toNat) }
  have hexecData := hread hin hlt hfits _ (lowBytes_length _ _) (holds_of_stored hstored)
  have hlo := s.arg1.isLt
  have hhi := s.arg2.isLt
  have hbool : ¬ (s.arg0.toNat = 0 ∧ 1 < (s.arg2.toNat * 2 ^ 32 + s.arg1.toNat) % 2 ^ (8 * widthOfTag s.arg0.toNat)) := by
    rintro ⟨hzero, hgt⟩
    rw [Representable, if_pos hzero] at hrep
    exact absurd (hgt.trans_le ((Nat.mod_le ..).trans hrep)) (lt_irrefl 1)
  rw [littleEndian_lowBytes, if_neg hbool, extended_of_representable hlt (by omega) hrep] at hexecData
  refine ⟨_, _, hexec, rfl, hexecData, rfl, ?_⟩
  simp only [BitVec.toNat_eq, BitVec.toNat_ofNat]
  omega

end Sys2Proof.Machine
end

section
/-! PROOF of O13, O14 and O15: the commands that assemble cells of PWM. Each tests its ranges, reads its sources whole and
then stores what it made of them; the reading (`reading_of_holds`, `reading_of_unwritten`) and the storing
(`passed_storePwm`) are said once for the three. -/

namespace Sys2Proof.Machine

/-! ### Reading a range whole and storing one (20_memory.md R67, R75) -/

section
variable {w a n : Nat} {m : Memory w} {go : List (BitVec w) → Answer}

theorem reading_of_holds {vs : List (BitVec w)} (hlen : vs.length = n) (h : Holds m a vs) :
    reading (m.readRange a n) go = go vs := by
  rw [← hlen, readRange_of_holds m a vs h, reading]

theorem reading_of_unwritten (h : ∃ i < n, m.read (a + i) = none) :
    reading (m.readRange a n) go = .fault .uninitRead := by
  rw [(Memory.readRange_eq_none m a n).mpr h, reading]

end

section
variable {s : State}

/-- A command that stores cells in PWM finishes Passed with their number in RET0. -/
theorem passed_storePwm {n : Nat} {cells : List Chunk} (hlen : cells.length = n) (a : Nat) :
    ∃ m, finish .passed (storePwm a cells s) =
        .next { s with result := .passed, pwm := m, ret0 := BitVec.ofNat 32 n } ∧
      Stored s.pwm m a cells :=
  ⟨s.pwm.writeRange a cells, by rw [← hlen]; rfl, stored_writeRange s.pwm a cells⟩

/-! ### PKT_CREATE (R122) -/

theorem execPktCreate_of_badRange (h : ¬ InRange s.arg1 s.params.pwmSize ∨ ¬ InRange s.arg2 s.params.pwmSize ∨
    rangeLen s.arg2 < rangeLen s.arg1 + 2) : execPktCreate s = finish .failed s := by
  simp only [execPktCreate, argRange_len, ← ite_or]
  exact if_pos (by rwa [fits_eq_false_iff, fits_eq_false_iff, or_assoc])

/-- How PKT_CREATE ends once its segments are read: a value that is no chunk is Crashed. -/
def createPlane (s : State) (S : List Chunk) : Answer :=
  if S.all isChunk = false then finish .crashed s
  else finish .passed (storePwm (rangeAddr s.arg2) (makePlane (argByte s.arg0) S) s)

theorem execPktCreate_of_inRange (hsrc : InRange s.arg1 s.params.pwmSize) (hdst : InRange s.arg2 s.params.pwmSize)
    (hfits : rangeLen s.arg1 + 2 ≤ rangeLen s.arg2) :
    execPktCreate s = reading (s.pwm.readRange (rangeAddr s.arg1) (rangeLen s.arg1)) (createPlane s) := by
  simp only [execPktCreate, fits_eq_false_iff, argRange_len, argRange_addr, hsrc, hdst, not_true_eq_false, or_self,
    if_false]
  exact if_neg (Nat.not_lt.mpr hfits)

theorem all_isChunk_eq_false_iff (S : List Chunk) : S.all isChunk = false ↔ ∃ c ∈ S, 1023 < c.toNat := by
  simp [List.all_eq_false, isChunk]

theorem createPlane_of_bad {S : List Chunk} (h : ∃ c ∈ S, 1023 < c.toNat) : createPlane s S = finish .crashed s :=
  if_pos ((all_isChunk_eq_false_iff S).mpr h)

theorem createPlane_of_chunks {S : List Chunk} (h : ∀ c ∈ S, c.toNat ≤ 1023) :
    createPlane s S = finish .passed (storePwm (rangeAddr s.arg2) (planeOf (BitVec.ofNat 8 s.arg0.toNat) S) s) := by
  rw [planeOf_eq_makePlane, ← argByte_eq]
  refine if_neg fun hbad => ?_
  obtain ⟨c, hc, hgt⟩ := (all_isChunk_eq_false_iff S).mp hbad
  exact absurd (h c hc) (Nat.not_le.mpr hgt)

/-! ### PKT_APPEND (R123) -/

theorem execPktAppend_of_badRange (h : ¬ InRange s.arg0 s.params.pwmSize ∨ ¬ InRange s.arg1 s.params.pwmSize ∨
    ¬ InRange s.arg2 s.params.pwmSize ∨ rangeLen s.arg2 < rangeLen s.arg0 + rangeLen s.arg1) :
    execPktAppend s = finish .failed s := by
  simp only [execPktAppend, argRange_len, ← ite_or]
  exact if_pos (by rwa [fits_eq_false_iff, fits_eq_false_iff, fits_eq_false_iff, or_assoc, or_assoc])

theorem execPktAppend_of_inRange (hA : InRange s.arg0 s.params.pwmSize) (hB : InRange s.arg1 s.params.pwmSize)
    (hdst : InRange s.arg2 s.params.pwmSize) (hfits : rangeLen s.arg0 + rangeLen s.arg1 ≤ rangeLen s.arg2) :
    execPktAppend s = reading (s.pwm.readRange (rangeAddr s.arg0) (rangeLen s.arg0)) fun A =>
      reading (s.pwm.readRange (rangeAddr s.arg1) (rangeLen s.arg1)) fun B =>
        finish .passed (storePwm (rangeAddr s.arg2) (A ++ B) s) := by
  simp only [execPktAppend, fits_eq_false_iff, argRange_len, argRange_addr, hA, hB, hdst, not_true_eq_false, or_self,
    if_false]
  exact if_neg (Nat.not_lt.mpr hfits)

/-! ### PKT_SEGFROMBYTES (R124) -/

theorem execPktSegFromBytes_of_badRange (h : ¬ InRange s.arg0 s.params.bwmSize ∨ ¬ InRange s.arg1 s.params.pwmSize ∨
    rangeLen s.arg1 < rangeLen s.arg0 + 1) : execPktSegFromBytes s = finish .failed s := by
  simp only [execPktSegFromBytes, argRange_len, ← ite_or]
  exact if_pos (by rwa [fits_eq_false_iff, fits_eq_false_iff, or_assoc])

theorem execPktSegFromBytes_of_inRange (hsrc : InRange s.arg0 s.params.bwmSize)
    (hdst : InRange s.arg1 s.params.pwmSize) (hfits : rangeLen s.arg0 + 1 ≤ rangeLen s.arg1) :
    execPktSegFromBytes s = reading (s.bwm.readRange (rangeAddr s.arg0) (rangeLen s.arg0)) fun B =>
      finish .passed (storePwm (rangeAddr s.arg1) (segmentOf s.params.divPayload B) s) := by
  simp only [execPktSegFromBytes, fits_eq_false_iff, argRange_len, argRange_addr, hsrc, hdst, not_true_eq_false, or_self,
    if_false, segmentOf_eq_paramSegment]
  exact if_neg (Nat.not_lt.mpr hfits)

theorem segmentOf_length (div : Byte) (B : List Byte) : (segmentOf div B).length = B.length + 1 := by
  rw [segmentOf, List.length_cons, List.length_map]

end

/-- Settles O13: the ranges, then the source read whole, then the chunks tested (`createPlane`). -/
theorem pktCreate : Obligations.PktCreate := by
  intro s
  show (_ → execPktCreate s = _) ∧ _
  refine ⟨execPktCreate_of_badRange, fun hsrc hdst hfits S hS hheld => ?_, fun hsrc hdst hfits hunwritten => ?_⟩
  · have hexec : exec .pktCreate s = createPlane s S :=
      (execPktCreate_of_inRange hsrc hdst hfits).trans (reading_of_holds hS hheld)
    rw [hexec]
    refine ⟨createPlane_of_bad, fun hchunks => ?_⟩
    rw [createPlane_of_chunks hchunks]
    exact passed_storePwm (by rw [planeOf_length, hS]) _
  · exact (execPktCreate_of_inRange hsrc hdst hfits).trans (reading_of_unwritten hunwritten)

/-- Settles O14: the second range is read after the first, and an unwritten cell of either stops the command. -/
theorem pktAppend : Obligations.PktAppend := by
  intro s
  show (_ → execPktAppend s = _) ∧ _
  refine ⟨execPktAppend_of_badRange, fun hA hB hdst hfits A B hlenA hlenB hheldA hheldB => ?_,
    fun hA hB hdst hfits hunwritten => (execPktAppend_of_inRange hA hB hdst hfits).trans ?_⟩
  · have hexec : exec .pktAppend s = finish .passed (storePwm (rangeAddr s.arg2) (A ++ B) s) :=
      (execPktAppend_of_inRange hA hB hdst hfits).trans
        ((reading_of_holds hlenA hheldA).trans (reading_of_holds hlenB hheldB))
    rw [hexec]
    exact passed_storePwm (by rw [List.length_append, hlenA, hlenB]) _
  · rcases hunwritten with hunwrittenA | hunwrittenB
    · exact reading_of_unwritten hunwrittenA
    · rcases reading_cases (s.pwm.readRange (rangeAddr s.arg0) (rangeLen s.arg0)) _ with ⟨_, hstop⟩ | ⟨A, _, hgo⟩
      · exact hstop
      · exact hgo.trans (reading_of_unwritten hunwrittenB)

/-- Settles O15: the bytes are read whole and stored as one segment. -/
theorem pktSegFromBytes : Obligations.PktSegFromBytes := by
  intro s
  show (_ → execPktSegFromBytes s = _) ∧ _
  refine ⟨execPktSegFromBytes_of_badRange, fun hsrc hdst hfits B hB hheld => ?_, fun hsrc hdst hfits hunwritten => ?_⟩
  · have hexec : exec .pktSegFromBytes s = _ :=
      (execPktSegFromBytes_of_inRange hsrc hdst hfits).trans (reading_of_holds hB hheld)
    rw [hexec]
    exact passed_storePwm (by rw [segmentOf_length, hB]) _
  · exact (execPktSegFromBytes_of_inRange hsrc hdst hfits).trans (reading_of_unwritten hunwritten)

end Sys2Proof.Machine
end

section
/-! PROOF of O16, O18 and O20: the commands that look at a plane and write no cell. Each is run on the plane the scan of
R118 finds, PKT_VERIFYID on its first cell. -/

namespace Sys2Proof.Machine

section
variable {s : State} {first : Chunk} {mid : List Chunk} {last : Chunk}

/-! ### The numbers the commands return (30_encoding.md R87) -/

theorem plane_length (first : Chunk) (mid : List Chunk) (last : Chunk) :
    (first :: (mid ++ [last])).length = mid.length + 2 := by
  rw [List.length_cons, List.length_append, List.length_singleton]

/-- The number of Div chunks of a plane (R128). -/
theorem paramCount_plane (first : Chunk) (mid : List Chunk) (last : Chunk) :
    paramCount (first :: (mid ++ [last])) = (mid.filter fun c => 256 ≤ c.toNat && c.toNat < 512).length := by
  have hdiv (c : Chunk) : decide (typeOf c = some .div) = (decide (256 ≤ c.toNat) && decide (c.toNat < 512)) := by
    rw [← Bool.decide_and, decide_eq_decide, typeOf_div_iff]
    omega
  rw [paramCount, inner_plane, List.countP_eq_length_filter]
  simp only [hdiv]

/-- Where no Start chunk stands inside, the Div chunks are those that are no Byte chunk. -/
theorem paramCount_plane_of_lt (h : ∀ c ∈ mid, c.toNat < 512) :
    paramCount (first :: (mid ++ [last])) = (mid.filter fun c => 256 ≤ c.toNat).length := by
  rw [paramCount_plane]
  refine congrArg List.length (List.filter_congr fun c hc => ?_)
  rw [decide_eq_true (h c hc), Bool.and_true]

/-- The payload of a chunk in a RET register. -/
theorem byteOf_setWidth (c : Chunk) : (byteOf c).setWidth 32 = BitVec.ofNat 32 (c.toNat % 256) :=
  setWidth_eq_ofNat_of_toNat (byteOf_toNat c)

theorem byteOf_eq_ofNat (c : Chunk) : byteOf c = BitVec.ofNat 8 c.toNat :=
  BitVec.eq_of_toNat_eq (by rw [byteOf_toNat, BitVec.toNat_ofNat])

/-! ### The commands -/

/-- PKT_VERIFYCHECKSUM over a plane the scan finds (R125). -/
theorem execPktVerifyCheckSum_of_scansAs (h : ScansAs s s.arg0 first mid last) :
    execPktVerifyCheckSum s =
      if sum8 mid = last.toNat % 256 then finish .passed { s with ret0 := BitVec.ofNat 32 (mid.length + 2) }
      else finish .failed s := by
  rw [execPktVerifyCheckSum, withPlane_of_scansAs _ h]
  simp only [cks_eq_check_iff, plane_length, retNat]

/-- PKT_VERIFYID of a written first cell (R127). -/
theorem execPktVerifyID_of_read {c : Chunk} (hin : InRange s.arg0 s.params.pwmSize) (hlen : 0 < rangeLen s.arg0)
    (hread : s.pwm.read (rangeAddr s.arg0) = some c) :
    execPktVerifyID s =
      if c.toNat / 256 = 2 ∧ BitVec.ofNat 8 c.toNat ∈ s.params.supported then
        finish .passed { s with ret0 := BitVec.ofNat 32 (c.toNat % 256) }
      else finish .incompatibility s := by
  have hsupported : s.params.supported.contains (byteOf c) = true ↔ BitVec.ofNat 8 c.toNat ∈ s.params.supported := by
    rw [List.contains_iff_mem, byteOf_eq_ofNat]
  simp only [execPktVerifyID, fits_eq_false_iff, argRange_len, argRange_addr, hin, not_true_eq_false, if_false,
    Nat.ne_of_gt hlen, hread, reading, ne_eq, typeOf_start_iff, byteOf_setWidth, hsupported, ite_not, ite_and]

/-- A command over an analyzed plane ends as the checks of R120 do on the plane the scan finds, or goes on with it. -/
theorem withAnalysis_of_scansAs (go : PlaneInfo → Answer) (h : ScansAs s s.arg0 first mid last) :
    withAnalysis s go =
      if sum8 mid ≠ last.toNat % 256 then finish .failed s
      else if BitVec.ofNat 8 first.toNat ∉ s.params.supported then finish .incompatibility s
      else if (∃ c ∈ mid, 512 ≤ c.toNat) ∨ mid.head?.any (fun c => c.toNat < 256) = true then finish .crashed s
      else go ⟨first :: (mid ++ [last]), paramCount (first :: (mid ++ [last])), BitVec.ofNat 8 first.toNat⟩ := by
  have ⟨_, _, _, hmid, _⟩ := h
  rw [withAnalysis, argRange_addr, argRange_len, analyzeCells_of_scansAs _ h, checkPlane_eq _ hmid]
  split_ifs
  · rfl
  · rfl
  · rfl
  · rfl

/-- PKT_FULLYANALYZE over a plane the scan finds returns what the checks found (R130). -/
theorem execPktFullyAnalyze_of_scansAs (h : ScansAs s s.arg0 first mid last) :
    execPktFullyAnalyze s =
      if sum8 mid ≠ last.toNat % 256 then finish .failed s
      else if BitVec.ofNat 8 first.toNat ∉ s.params.supported then finish .incompatibility s
      else if (∃ c ∈ mid, 512 ≤ c.toNat) ∨ mid.head?.any (fun c => c.toNat < 256) = true then finish .crashed s
      else finish .passed
        { s with
          ret0 := BitVec.ofNat 32 (mid.length + 2)
          ret1 := BitVec.ofNat 32 (mid.filter fun c => 256 ≤ c.toNat).length
          ret2 := BitVec.ofNat 32 (first.toNat % 256) } := by
  have hfits : ¬ (argRange s.arg0).fits s.params.pwmSize = false := by
    rw [fits_eq_false_iff]
    exact not_not.mpr h.1
  rw [execPktFullyAnalyze, if_neg hfits, withAnalysis_of_scansAs _ h]
  refine ite_congr rfl (fun _ => rfl) fun _ => ite_congr rfl (fun _ => rfl) fun _ =>
    ite_congr rfl (fun _ => rfl) fun hgood => ?_
  have hlt : ∀ c ∈ mid, c.toNat < 512 := fun c hc => Nat.lt_of_not_le fun hle => hgood (.inl ⟨c, hc, hle⟩)
  simp only [plane_length, paramCount_plane_of_lt hlt, ← byteOf_eq_ofNat, byteOf_setWidth, retNat]

end

/-- Settles O16: the three commands run on the plane that the scan finds. -/
theorem commandsOverAPlane : Obligations.CommandsOverAPlane := by
  intro s first mid last h
  refine ⟨execPktVerifyCheckSum_of_scansAs h, ?_, ?_⟩
  · have hexec : exec .pktGetTotalSize s = _ := withPlane_of_scansAs _ h
    rw [hexec, plane_length]
    rfl
  · have hexec : exec .pktGetParamCount s = _ := withPlane_of_scansAs _ h
    rw [hexec, paramCount_plane]
    rfl

/-- Settles O18: a bad range and an empty one are refused before the first cell is read. -/
theorem pktVerifyID : Obligations.PktVerifyID := by
  intro s
  show (_ → execPktVerifyID s = _) ∧ _
  refine ⟨fun hbad => ?_, fun hin hempty => ?_, fun hin hlen c hread => execPktVerifyID_of_read hin hlen hread,
    fun hin hlen hread => ?_⟩
  · exact if_pos ((fits_eq_false_iff _ _).mpr hbad)
  · exact (if_neg fun hbad => (fits_eq_false_iff _ _).mp hbad hin).trans (if_pos (by rw [argRange_len, hempty]))
  · have hpos : (argRange s.arg0).len ≠ 0 := by rw [argRange_len]; omega
    refine (if_neg fun hbad => (fits_eq_false_iff _ _).mp hbad hin).trans ((if_neg hpos).trans ?_)
    rw [argRange_addr, hread]
    rfl

/-- Settles O20: `execPktFullyAnalyze_of_scansAs`. -/
theorem pktFullyAnalyze : Obligations.PktFullyAnalyze := fun _ _ _ _ h => execPktFullyAnalyze_of_scansAs h

end Sys2Proof.Machine
end

section
/-! PROOF of O22 and O23: the checksum of a plane that PKT_CREATE made, and of one with a payload changed. -/

namespace Sys2Proof.Machine

/-! ### Sums and Checks (42_packet.md R117) -/

theorem sum8_lt (S : List Chunk) : sum8 S < 256 := Nat.mod_lt _ (by decide)

/-- The Check of a sum is a Check chunk with that payload. -/
theorem check_toNat (S : List Chunk) : (BitVec.ofNat 16 (768 + sum8 S)).toNat = 768 + sum8 S :=
  Nat.mod_eq_of_lt (by have := sum8_lt S; omega)

/-- A sum is the payload of one of its chunks and the sums on both sides of it. -/
theorem sum8_append_cons (before after : List Chunk) (c : Chunk) :
    sum8 (before ++ c :: after) = (sum8 before + c.toNat % 256 + sum8 after) % 256 := by
  simp only [sum8, List.map_append, List.map_cons, List.sum_append, List.sum_cons]
  omega

/-- Another payload of one chunk gives another sum: the two differ by 1 to 255 (R133). -/
theorem sum8_ne_of_payload_ne {c c' : Chunk} (before after : List Chunk) (h : c.toNat % 256 ≠ c'.toNat % 256) :
    sum8 (before ++ c' :: after) ≠ sum8 (before ++ c :: after) := by
  rw [sum8_append_cons, sum8_append_cons]
  omega

/-! ### A plane in memory -/

/-- A plane without a Check chunk inside, held in PWM, is one to the scan (30_encoding.md R96, 42_packet.md R118). -/
theorem planeAt_of_holds {s : State} {v : Word} {id : Byte} {body : List Chunk} (hin : InRange v s.params.pwmSize)
    (hlen : body.length + 2 ≤ rangeLen v) (hbody : ∀ c ∈ body, c.toNat < 768)
    (hheld : Holds s.pwm (rangeAddr v) (planeOf id body)) : PlaneAt s v id body := by
  have hid := id.isLt
  have hstart : (startChunk id).toNat = 512 + id.toNat := encodeChunk_toNat id .start
  have hcheck := check_toNat body
  have hsum := sum8_lt body
  exact ⟨hin, hlen, by omega, hbody, by omega, hheld⟩

/-- PKT_VERIFYCHECKSUM of a plane that carries its own sum (R125). -/
theorem execPktVerifyCheckSum_of_planeAt {s : State} {id : Byte} {body : List Chunk} (h : PlaneAt s s.arg0 id body) :
    execPktVerifyCheckSum s = finish .passed { s with ret0 := BitVec.ofNat 32 (body.length + 2) } := by
  have hsum := sum8_lt body
  rw [execPktVerifyCheckSum_of_scansAs h, check_toNat]
  exact if_pos (by omega)

/-- A command that finishes Passed does not finish with another code. -/
theorem ne_finish_of_passed {a : Answer} {s t : State} {code : ResultCode} (ha : a = .next t) (ht : t.result = .passed)
    (hcode : code ≠ .passed) : a ≠ finish code s := by
  rintro rfl
  obtain rfl := Host.Outcome.next.inj ha
  exact hcode ht

/-- PKT_CREATE that finishes Passed on held segments had good ranges and chunks, and stored their plane (R122). -/
theorem pktCreate_passed {s t : State} {S : List Chunk} (hS : S.length = rangeLen s.arg1)
    (hheld : Holds s.pwm (rangeAddr s.arg1) S) (hexec : exec .pktCreate s = .next t) (hpassed : t.result = .passed) :
    InRange s.arg2 s.params.pwmSize ∧ rangeLen s.arg1 + 2 ≤ rangeLen s.arg2 ∧ (∀ c ∈ S, c.toNat ≤ 1023) ∧
      ∃ m, t = { s with result := .passed, pwm := m, ret0 := BitVec.ofNat 32 (rangeLen s.arg1 + 2) } ∧
        Holds m (rangeAddr s.arg2) (planeOf (BitVec.ofNat 8 s.arg0.toNat) S) := by
  obtain ⟨hbadRange, hgood, -⟩ := pktCreate s
  have hranges := mt hbadRange (ne_finish_of_passed hexec hpassed (by decide))
  rw [not_or, not_or, not_not, not_not, Nat.not_lt] at hranges
  obtain ⟨hsrc, hdst, hfits⟩ := hranges
  obtain ⟨hcrashed, hstores⟩ := hgood hsrc hdst hfits S hS hheld
  have hchunks : ∀ c ∈ S, c.toNat ≤ 1023 := fun c hc =>
    Nat.le_of_not_lt fun hgt => ne_finish_of_passed hexec hpassed (by decide) (hcrashed ⟨c, hc, hgt⟩)
  obtain ⟨m, hnext, hstored⟩ := hstores hchunks
  exact ⟨hdst, hfits, hchunks, m, Host.Outcome.next.inj (hexec.symm.trans hnext), holds_of_stored hstored⟩

/-- Settles O22: the plane stored is held at the destination, and without a Check inside the scan takes it whole. -/
theorem createdPlaneVerifies : Obligations.CreatedPlaneVerifies := by
  intro s t S v hS hheld hnoCheck hexec hpassed haddr hlen
  obtain ⟨hdst, hfits, hchunks, m, rfl, hplane⟩ := pktCreate_passed hS hheld hexec hpassed
  have hlenDst : rangeLen s.arg2 < 65536 := by have := s.arg2.isLt; unfold rangeLen; omega
  replace hlen : rangeLen v = rangeLen s.arg1 + 2 := hlen.trans (Nat.mod_eq_of_lt (by omega))
  rw [← haddr] at hplane
  have hin : InRange v s.params.pwmSize := by unfold InRange at hdst ⊢; omega
  have hbody : ∀ c ∈ S, c.toNat < 768 := fun c hc => by
    have := hchunks c hc
    have := hnoCheck c hc
    omega
  have hfit : S.length + 2 ≤ rangeLen v := by omega
  rw [← hS]
  exact execPktVerifyCheckSum_of_planeAt (planeAt_of_holds hin hfit hbody hplane)

/-- Settles O23: the plane that verifies carries its own sum, and the changed plane has another sum. -/
theorem changedPayloadFailsChecksum : Obligations.ChangedPayloadFailsChecksum := by
  rintro s s' first last c c' before after hplane hplane' ⟨t, hexec, hpassed⟩ - hpayload
  have hne := sum8_ne_of_payload_ne before after hpayload
  have hverified : sum8 (before ++ c :: after) = last.toNat % 256 := by
    by_contra hsum
    exact ne_finish_of_passed hexec hpassed (by decide)
      ((execPktVerifyCheckSum_of_scansAs hplane).trans (if_neg hsum))
  refine ⟨hne, (execPktVerifyCheckSum_of_scansAs hplane').trans (if_neg ?_)⟩
  rwa [← hverified]

end Sys2Proof.Machine
end

section
/-! PROOF of O42: the dock of an error plane (45_gate.md R198). The tests come in the order of `analyze`, then the size and
the parameters against gate 8; no test that fails changes the state. -/

namespace Sys2Proof.Machine

section
variable {s : State} {g : Gate} {first : Chunk} {mid : List Chunk} {last : Chunk} {segments : List (Byte × List Byte)}

/-- How the dock of an error plane ends once its plane is analyzed: its size and its parameters against gate 8 (R195,
R198). -/
def dockErrorAt (g : Gate) (P : List Chunk) (s : State) : ResultCode × State :=
  if P.length > g.conf.maxSizeOfPlane then (.failed, s)
  else if typesOK (planeParams P) g.conf.arriveTypes = false then (.failed, s)
  else (.passed, (s.updateGate 8 (Gate.docked (planeParams P))).report .errorReceived)

theorem dockErrorAt_of_refused
    (h : g.conf.maxSizeOfPlane < (segments.flatMap fun p => segmentOf p.1 p.2).length + 2 ∨
      ¬ ParamsOK (segments.map (·.2)) g.conf.arriveTypes) :
    dockErrorAt g (first :: ((segments.flatMap fun p => segmentOf p.1 p.2) ++ [last])) s = (.failed, s) := by
  rw [dockErrorAt, planeParams_of_segments, plane_length, ← ite_or]
  exact if_pos (by rwa [← Bool.not_eq_true, typesOK_iff])

theorem dockErrorAt_of_fitting
    (hlen : (segments.flatMap fun p => segmentOf p.1 p.2).length + 2 ≤ g.conf.maxSizeOfPlane)
    (htypes : ParamsOK (segments.map (·.2)) g.conf.arriveTypes) :
    dockErrorAt g (first :: ((segments.flatMap fun p => segmentOf p.1 p.2) ++ [last])) s =
      (.passed, (s.updateGate 8 (Gate.docked (segments.map (·.2)))).report .errorReceived) := by
  rw [dockErrorAt, planeParams_of_segments, plane_length, if_neg (Nat.not_lt.mpr hlen),
    if_neg (by rw [(typesOK_iff _ _).mpr htypes]; decide)]

/-- The tests of an error plane in their order (R120, R198). -/
theorem dockError_of_plane (hgate : s.gate? 8 = some g) (hmid : ∀ c ∈ mid, c.toNat < 768)
    (hlast : last.toNat / 256 = 3) :
    dockError (0x208#16 :: (mid ++ [last])) s =
      if sum8 mid ≠ last.toNat % 256 then (.failed, s)
      else if 8 ∉ s.params.supported then (.incompatibility, s)
      else if (∃ c ∈ mid, 512 ≤ c.toNat) ∨ mid.head?.any (fun c => c.toNat < 256) = true then (.crashed, s)
      else dockErrorAt g (0x208#16 :: (mid ++ [last])) s := by
  have hid : BitVec.ofNat 8 (0x208#16 : Chunk).toNat = 8 := rfl
  rw [dockError, hgate]
  dsimp only
  rw [analyzePlane_of_plane _ (by decide) hmid hlast, checkPlane_eq _ hmid, hid]
  by_cases hsum : sum8 mid ≠ last.toNat % 256
  · rw [if_pos hsum, if_pos hsum]
  rw [if_neg hsum, if_neg hsum]
  by_cases hsupported : 8 ∉ s.params.supported
  · rw [if_pos hsupported, if_pos hsupported]
  rw [if_neg hsupported, if_neg hsupported]
  by_cases hbad : (∃ c ∈ mid, 512 ≤ c.toNat) ∨ mid.head?.any (fun c => c.toNat < 256) = true
  · rw [if_pos hbad, if_pos hbad]
  · rw [if_neg hbad, if_neg hbad, dockErrorAt]

/-- GATE_DOCK of a plane of ID 8 ends as the dock of an error plane does (R198, R208). -/
theorem execGateDock_of_errorPlane {code : ResultCode} {t : State} (h : ScansAs s s.arg0 0x208#16 mid last)
    (hdock : dockError (0x208#16 :: (mid ++ [last])) s = (code, t)) : execGateDock s = finish code t := by
  have hid : planeID (0x208#16 :: (mid ++ [last])) = 8 := planeID_cons (mid ++ [last])
  rw [execGateDock, withPlane_of_scansAs _ h, dock, if_pos hid, hdock]

end

/-- Settles O42: `dockError_of_plane`, branch by branch, with the parameters of a plane made of segments. -/
theorem gateDockErrorPlane : Obligations.GateDockErrorPlane := by
  intro s g mid last hd hg h8 hplane
  have hgate : s.gate? 8 = some g := h8 ▸ gate?_of_mem hd hg
  have ⟨_, _, _, hmid, hlast, _⟩ := hplane
  have hdock := dockError_of_plane hgate hmid hlast
  refine ⟨fun hsum => ?_, fun hsum hid => ?_, fun hsum hid => ⟨fun hbad => ?_, ?_⟩⟩
  · exact execGateDock_of_errorPlane hplane (hdock.trans (if_pos hsum))
  all_goals replace hdock := hdock.trans (if_neg (not_not.mpr hsum))
  · exact execGateDock_of_errorPlane hplane (hdock.trans (if_pos hid))
  · exact execGateDock_of_errorPlane hplane ((hdock.trans (if_neg (not_not.mpr hid))).trans (if_pos hbad))
  · rintro segments rfl
    replace hdock := (hdock.trans (if_neg (not_not.mpr hid))).trans (if_neg (structure_of_segments segments))
    exact ⟨fun hrefused => execGateDock_of_errorPlane hplane (hdock.trans (dockErrorAt_of_refused hrefused)),
      fun hlen htypes => execGateDock_of_errorPlane hplane (hdock.trans (dockErrorAt_of_fitting hlen htypes))⟩

end Sys2Proof.Machine
end

section
/-! PROOF of O24, O25, O27, O33 and O34: the terminal commands that receive nothing. TERM_PUT has one equation for each way
`put` can end; a sequence of puts is then an induction on the IDs put. -/

namespace Sys2Proof.Machine

section
variable {s : State}

/-! ### TERM_PUT (43_terminal.md R151, R155) -/

theorem execTermPut_of_mem (h : BitVec.ofNat 8 s.arg0.toNat ∈ s.tax) : execTermPut s = finish .failed s := by
  rw [← argByte_eq] at h
  rcases put_cases (argByte s.arg0) s with ⟨_, hput⟩ | ⟨hnew, _⟩ | ⟨hnew, _⟩
  · rw [execTermPut, hput]
  · exact absurd h hnew
  · exact absurd h hnew

theorem execTermPut_of_full (hnew : BitVec.ofNat 8 s.arg0.toNat ∉ s.tax)
    (hfull : s.tax.length = s.params.sizeOfDepartureTaxiway) :
    execTermPut s = finish .failed { s with departureStatus := .notEnoughSpace } := by
  rw [← argByte_eq] at hnew
  rcases put_cases (argByte s.arg0) s with ⟨hmem, _⟩ | ⟨_, _, hput⟩ | ⟨_, hroom, _⟩
  · exact absurd hmem hnew
  · rw [execTermPut, hput]
  · exact absurd hfull hroom

theorem execTermPut_of_room (hnew : BitVec.ofNat 8 s.arg0.toNat ∉ s.tax)
    (hroom : s.tax.length ≠ s.params.sizeOfDepartureTaxiway) :
    execTermPut s = finish .passed
      { s with tax := s.tax ++ [BitVec.ofNat 8 s.arg0.toNat], departureStatus := .departureAvailable } := by
  rw [← argByte_eq] at hnew ⊢
  rcases put_cases (argByte s.arg0) s with ⟨hmem, _⟩ | ⟨_, hfull, _⟩ | ⟨_, _, hput⟩
  · exact absurd hmem hnew
  · exact absurd hfull hroom
  · rw [execTermPut, hput]

/-! ### Sequences of puts (R164) -/

/-- The operand that names an ID names that ID. -/
theorem ofNat_ofNat_toNat {w n : Nat} (hw : w ≤ n) (x : BitVec w) : BitVec.ofNat w (BitVec.ofNat n x.toNat).toNat = x := by
  have hlt : x.toNat < 2 ^ n := Nat.lt_of_lt_of_le x.isLt (Nat.pow_le_pow_right (by decide) hw)
  rw [BitVec.toNat_ofNat, Nat.mod_eq_of_lt hlt, BitVec.ofNat_toNat, BitVec.setWidth_eq]

/-- A sequence of commands is the first one and the sequence of the others from the state it leaves. -/
theorem callEach_cons {i : Instr} {v : Word} {t : State} (rest : List Word) (h : exec i { s with arg0 := v } = .next t) :
    callEach i (v :: rest) s = (t.result :: (callEach i rest t).1, (callEach i rest t).2) := by
  rw [callEach, h]

/-- Distinct IDs, one more than the taxiway has room for: each is put but the last. -/
theorem callEach_termPut_fill (front : List Byte) (last : Byte) (hnodup : (s.tax ++ (front ++ [last])).Nodup)
    (hcap : s.tax.length + front.length = s.params.sizeOfDepartureTaxiway) :
    (callEach .termPut ((front ++ [last]).map fun id => BitVec.ofNat 32 id.toNat) s).1 =
        List.replicate front.length .passed ++ [.failed] ∧
      (callEach .termPut ((front ++ [last]).map fun id => BitVec.ofNat 32 id.toNat) s).2.tax = s.tax ++ front := by
  induction front generalizing s with
  | nil =>
    have hnew : last ∉ s.tax := fun hmem => List.disjoint_of_nodup_append hnodup hmem (List.mem_singleton_self last)
    have hput : exec .termPut { s with arg0 := BitVec.ofNat 32 last.toNat } = _ :=
      execTermPut_of_full (by rwa [ofNat_ofNat_toNat (by decide)]) hcap
    rw [List.nil_append, List.map_singleton, callEach_cons [] hput]
    exact ⟨rfl, (List.append_nil _).symm⟩
  | cons id front ih =>
    have hnew : id ∉ s.tax := fun hmem => List.disjoint_of_nodup_append hnodup hmem List.mem_cons_self
    have hroom : s.tax.length ≠ s.params.sizeOfDepartureTaxiway := by rw [List.length_cons] at hcap; omega
    have hput : exec .termPut { s with arg0 := BitVec.ofNat 32 id.toNat } = _ :=
      execTermPut_of_room (by rwa [ofNat_ofNat_toNat (by decide)]) hroom
    rw [ofNat_ofNat_toNat (by decide)] at hput
    rw [List.cons_append, List.map_cons, callEach_cons _ hput]
    obtain ⟨hcodes, htax⟩ := ih (s := { s with
      arg0 := BitVec.ofNat 32 id.toNat, tax := s.tax ++ [id], departureStatus := .departureAvailable, result := .passed })
      (by simpa using hnodup) (by simp at hcap ⊢; omega)
    exact ⟨congrArg (ResultCode.passed :: ·) hcodes, htax.trans (List.append_assoc _ _ _)⟩

/-! ### TERM_TAKEARRIVAL (R160, R162) -/

theorem execTermTakeArrival_of_not_inRange (h : ¬ InRange s.arg0 s.params.pwmSize) :
    execTermTakeArrival s = finish .failed s := if_pos ((fits_eq_false_iff _ _).mpr h)

/-- With a good destination the command looks at the arrival state and then at the length. -/
theorem execTermTakeArrival_of_inRange (h : InRange s.arg0 s.params.pwmSize) :
    execTermTakeArrival s =
      if s.arrState ≠ .complete then finish .bypassed s
      else if rangeLen s.arg0 < s.arrBuf.length then finish .failed s
      else finish .passed
        { (takeArrival s).2 with
          pwm := s.pwm.writeRange (rangeAddr s.arg0) s.arrBuf
          ret0 := BitVec.ofNat 32 s.arrBuf.length
          ret1 := (planeID s.arrBuf).setWidth 32 } := by
  have hfits : ¬ (argRange s.arg0).fits s.params.pwmSize = false := by
    rw [fits_eq_false_iff]
    exact not_not.mpr h
  rw [← argRange_len, ← argRange_addr]
  exact if_neg hfits

end

/-- Settles O24: the three ways `put` can end. -/
theorem termPut : Obligations.TermPut := fun _ => ⟨execTermPut_of_mem, execTermPut_of_full, execTermPut_of_room⟩

/-- Settles O25: the RET registers as numbers. -/
theorem termReports : Obligations.TermReports := by
  refine fun s => ⟨?_, ?_⟩
  · show finish _ _ = _
    rw [argByte_eq, isOn, List.contains_eq_mem]
    split_ifs with hmem
    · rw [decide_eq_true hmem]
      rfl
    · rw [decide_eq_false hmem]
      rfl
  · show finish _ _ = _
    rw [setWidth_eq_ofNat_of_toNat (x := s.receivingID) rfl, setWidth_eq_ofNat_of_toNat (x := s.runSum) rfl]
    cases s.arrState <;> rfl

/-- Settles O27: `callEach_termPut_fill` from an empty taxiway, and the duplicate that `put` refuses. -/
theorem taxiwayCapacity : Obligations.TaxiwayCapacity := by
  refine ⟨fun s ids hempty hnodup hlen => ?_, fun s id hmem => ?_⟩
  · obtain ⟨front, last, rfl⟩ := (List.eq_nil_or_concat' ids).resolve_left (by rintro rfl; cases hlen)
    have hcap : front.length = s.params.sizeOfDepartureTaxiway := by simpa using hlen
    have hfill := callEach_termPut_fill (s := s) front last (by rwa [hempty]) (by rw [hempty, ← hcap]; simp)
    rw [hempty, List.nil_append, hcap] at hfill
    rwa [List.dropLast_concat]
  · have hput : exec .termPut { s with arg0 := BitVec.ofNat 32 id.toNat } = _ :=
      execTermPut_of_mem (by rwa [ofNat_ofNat_toNat (by decide)])
    exact callEach_cons [] hput

/-- Settles O33: the range, the arrival state and the length are tested in this order before the plane is stored. -/
theorem termTakeArrival : Obligations.TermTakeArrival := by
  refine fun s => ⟨execTermTakeArrival_of_not_inRange, fun hin hnone => ?_, fun hin hheld hshort => ?_,
    fun hin hheld hfits first rest hplane => ⟨s.pwm.writeRange (rangeAddr s.arg0) s.arrBuf, ?_, stored_writeRange _ _ _⟩⟩
  all_goals refine (execTermTakeArrival_of_inRange hin).trans ?_
  · exact if_pos hnone
  · exact (if_neg (not_not.mpr hheld)).trans (if_pos hshort)
  · have hid : (planeID s.arrBuf).setWidth 32 = BitVec.ofNat 32 (first.toNat % 256) := by
      rw [hplane]
      exact byteOf_setWidth first
    rw [if_neg (not_not.mpr hheld), if_neg (Nat.not_lt.mpr hfits), hid]
    rfl

/-- Settles O34: the command is this one update of the state. -/
theorem termReset : Obligations.TermReset := fun _ => rfl

end Sys2Proof.Machine
end

section
/-! PROOF of O28 to O31: TERM_ARRIVECHUNK. The arrival of a chunk has one equation for each kind of chunk and arrival state;
the command is then that arrival alone (`execTermArriveChunk_of_open`), or that arrival, the take of the plane and its dock
(`execTermArriveChunk_of_docked`). -/

namespace Sys2Proof.Machine

/-! ### Reported events -/

/-- A reported event is 1 in EVENTS (60_exceptions.md R232). -/
theorem getLsbD_report (e : Event) (s : State) : (s.report e).events.getLsbD e.bit = true := by
  have hbit : e.bit < 19 := by cases e <;> decide
  rw [State.report_events, BitVec.getLsbD_or, Event.mask, BitVec.getLsbD_twoPow, decide_eq_true hbit, decide_eq_true rfl]
  exact Bool.or_true _

/-! ### What a chunk does in each arrival state (43_terminal.md R142 to R148) -/

section
variable {s : State} {c : Chunk} {t : ChunkType}

theorem typeOf_of_index (h : c.toNat / 256 = t.index) : typeOf c = some t := by
  cases t
  · exact (typeOf_byte_iff c).mpr h
  · exact (typeOf_div_iff c).mpr h
  · exact (typeOf_start_iff c).mpr h
  · exact (typeOf_check_iff c).mpr h

theorem arrive_of_receiving (ht : c.toNat / 256 = t.index) (hs : s.arrState = .receiving) :
    arrive c s = arriveReceiving t c s := by
  simp only [arrive, typeOf_of_index ht, hs]

theorem arrive_start_of_idle (hc : c.toNat / 256 = 2) (hs : s.arrState = .idle) : arrive c s = beginPlane c s := by
  simp only [arrive, (typeOf_start_iff c).mpr hc, hs, if_true]

theorem arrive_start_of_receiving (hc : c.toNat / 256 = 2) (hs : s.arrState = .receiving) :
    arrive c s = beginPlane c (s.report .arrivalAborted) := arrive_of_receiving (t := .start) hc hs

theorem arrive_stray (hle : c.toNat ≤ 1023) (hc : c.toNat / 256 ≠ 2) (hs : s.arrState = .idle) :
    arrive c s = s.report .strayChunk := by
  obtain ⟨t, ht⟩ := ChunkType.exists_index (n := c.toNat / 256) (by omega)
  have hne : t ≠ .start := fun h => hc (by rw [← ht, h]; rfl)
  simp only [arrive, typeOf_of_index ht.symm, hs, hne, if_false]

theorem arrive_of_complete (hle : c.toNat ≤ 1023) (hs : s.arrState = .complete) :
    arrive c s = { s.report .arrivalDiscarded with arrivalStatus := .overflowing } := by
  obtain ⟨t, ht⟩ := ChunkType.exists_index (n := c.toNat / 256) (by omega)
  simp only [arrive, typeOf_of_index ht.symm, hs]

/-- A Byte or Div chunk in regular mode. -/
theorem arrive_payload_of_regular (hc : c.toNat < 512) (hs : s.arrState = .receiving) (hm : s.mode = .regular) :
    arrive c s = storePayload c s := by
  rcases (by omega : c.toNat / 256 = 0 ∨ c.toNat / 256 = 1) with ht | ht
  · simp only [arrive_of_receiving (t := .byte) ht hs, arriveReceiving, hm]
  · simp only [arrive_of_receiving (t := .div) ht hs, arriveReceiving, hm]

/-- A Byte or Div chunk in reject-incoming mode. -/
theorem arrive_payload_of_reject (hc : c.toNat < 512) (hs : s.arrState = .receiving) (hm : s.mode = .rejectIncoming) :
    arrive c s = { s with runSum := s.runSum + byteOf c } := by
  rcases (by omega : c.toNat / 256 = 0 ∨ c.toNat / 256 = 1) with ht | ht
  · simp only [arrive_of_receiving (t := .byte) ht hs, arriveReceiving, hm]
  · simp only [arrive_of_receiving (t := .div) ht hs, arriveReceiving, hm]

theorem storePayload_of_room (h : s.arrBuf.length + 1 ≠ s.params.sizeOfArrivalPlane) :
    storePayload c s = { s with runSum := s.runSum + byteOf c, arrBuf := s.arrBuf ++ [c] } :=
  if_neg (by rwa [State.cursor, List.length_append, List.length_singleton])

theorem storePayload_of_full (h : s.arrBuf.length + 1 = s.params.sizeOfArrivalPlane) :
    storePayload c s = dropPlane { s.report .arrivalOverflow with arrivalStatus := .notEnoughSpace } :=
  if_pos (by rwa [State.cursor, List.length_append, List.length_singleton])

/-- A Check chunk that matches the running sum in regular mode. -/
theorem arrive_check_of_match (hc : c.toNat / 256 = 3) (hs : s.arrState = .receiving) (hm : s.mode = .regular)
    (hsum : byteOf c = s.runSum) :
    arrive c s =
      { s.report .arrivalReady with
        arrState := .complete
        packetAvailable := true
        arrBuf := s.arrBuf ++ [c]
        arrivalStatus := .arrivalReady } := by
  simp only [arrive_of_receiving (t := .check) hc hs, arriveReceiving, hm]
  exact if_pos hsum

/-- A Check chunk that does not match is dropped with the plane in either mode. -/
theorem arrive_check_of_mismatch (hc : c.toNat / 256 = 3) (hs : s.arrState = .receiving) (hsum : byteOf c ≠ s.runSum) :
    arrive c s = dropPlane (s.report .incorrectChunkReceived) := by
  cases hm : s.mode <;> simp only [arrive_of_receiving (t := .check) hc hs, arriveReceiving, hm]
  · exact if_neg hsum
  · exact congrArg (fun e => dropPlane (s.report e)) (if_neg hsum)

/-- A Check chunk that matches in reject-incoming mode. -/
theorem arrive_check_of_reject (hc : c.toNat / 256 = 3) (hs : s.arrState = .receiving) (hm : s.mode = .rejectIncoming)
    (hsum : byteOf c = s.runSum) : arrive c s = dropPlane (s.report .rejectedPlane) := by
  simp only [arrive_of_receiving (t := .check) hc hs, arriveReceiving, hm]
  exact congrArg (fun e => dropPlane (s.report e)) (if_pos hsum)

end

/-! ### The command (R158) -/

/-- The chunk that ARG0 holds (30_encoding.md R86). -/
def State.operandChunk (s : State) : Chunk := BitVec.ofNat 16 s.arg0.toNat

section
variable {s t : State}

theorem State.operandChunk_toNat (h : s.arg0.toNat ≤ 1023) : s.operandChunk.toNat = s.arg0.toNat :=
  Nat.mod_eq_of_lt (by omega)

theorem byteOf_operandChunk (s : State) : byteOf s.operandChunk = BitVec.ofNat 8 s.arg0.toNat :=
  BitVec.eq_of_toNat_eq (by
    rw [byteOf_toNat, State.operandChunk, BitVec.toNat_ofNat, BitVec.toNat_ofNat]
    exact Nat.mod_mod_of_dvd _ (by decide))

theorem byteOf_operandChunk_eq_iff (s : State) (b : Byte) : byteOf s.operandChunk = b ↔ s.arg0.toNat % 256 = b.toNat := by
  rw [byteOf_operandChunk, ← BitVec.toNat_inj, BitVec.toNat_ofNat]

theorem execTermArriveChunk_of_gt (h : 1023 < s.arg0.toNat) : execTermArriveChunk s = finish .incompatibility s := by
  rw [execTermArriveChunk, argChunk_of_gt h]

theorem execTermArriveChunk_of_le (h : s.arg0.toNat ≤ 1023) :
    execTermArriveChunk s = finish .passed
      { arriveAndDock s.operandChunk s with ret0 := (arriveAndDock s.operandChunk s).arrState.code.setWidth 32 } := by
  have hchunk : argChunk s.arg0 = some s.operandChunk := by
    rw [argChunk, if_pos h, State.operandChunk, BitVec.ofNat_toNat]
  rw [execTermArriveChunk, hchunk]

/-- A chunk after which no plane waits for a dock. -/
theorem arriveAndDock_of_open {c : Chunk} (harrive : arrive c s = t)
    (hopen : ¬ (t.arrState = .complete ∧ t.autoDock = true)) : arriveAndDock c s = t := by
  rw [arriveAndDock, harrive, if_neg hopen]

/-- The command is then the arrival of the chunk. -/
theorem execTermArriveChunk_of_open {a : ArrState} (h : s.arg0.toNat ≤ 1023) (harrive : arrive s.operandChunk s = t)
    (ha : t.arrState = a) (hopen : ¬ (a = .complete ∧ t.autoDock = true)) :
    execTermArriveChunk s = finish .passed { t with ret0 := a.code.setWidth 32 } := by
  subst ha
  rw [execTermArriveChunk_of_le h, arriveAndDock_of_open harrive hopen]

section
variable (h : s.arg0.toNat ≤ 1023) (harrive : arrive s.operandChunk s = t) (hcomplete : t.arrState = .complete)
  (hauto : t.autoDock = true)
include h harrive hcomplete hauto

/-- A chunk after which a plane waits and AUTO_DOCK is 1: the plane is taken and docked (45_gate.md R196). -/
theorem execTermArriveChunk_of_docked :
    execTermArriveChunk s = finish .passed { (dock t.arrBuf (takeArrival t).2).2 with ret0 := 0 } := by
  have harrived : arriveAndDock s.operandChunk s = (dock t.arrBuf (takeArrival t).2).2 := by
    rw [arriveAndDock, harrive, if_pos ⟨hcomplete, hauto⟩]
    rfl
  have hidle : (dock t.arrBuf (takeArrival t).2).2.arrState = .idle := by rw [dock_frame, takeArrival_arrState]
  rw [execTermArriveChunk_of_le h, harrived, hidle]
  rfl

/-- The dock leaves the terminal as the take did: empty, with every event reported so far. -/
theorem execTermArriveChunk_empties {i : Nat} (hevent : t.events.getLsbD i = true) :
    ∃ d, exec .termArriveChunk s = .next d ∧ d.result = .passed ∧ d.ret0 = 0 ∧ d.arrState = .idle ∧
      d.packetAvailable = false ∧ d.arrBuf = [] ∧ d.runSum = 0 ∧ d.arrivalStatus = .initialised ∧
      d.receivingID = t.receivingID ∧ d.events.getLsbD i = true ∧ d.bwm = t.bwm ∧ d.pwm = t.pwm := by
  have hkept : (dock t.arrBuf (takeArrival t).2).2.events.getLsbD i = true :=
    (EventsKept.dock t.arrBuf (takeArrival t).2).getLsbD hevent
  have hframe := dock_frame t.arrBuf (takeArrival t).2
  unfold DockOnly at hframe
  refine ⟨_, execTermArriveChunk_of_docked h harrive hcomplete hauto, rfl, rfl, ?_, ?_, ?_, ?_, ?_, ?_, hkept, ?_, ?_⟩
  all_goals
    rw [hframe]
    rfl

/-- The dock of the command is that of GATE_DOCK, from the state the take leaves, over a PWM that holds the plane (R196,
R208): a dock neither reads nor writes ARG0, PWM, RESULT and RET0. -/
theorem execTermArriveChunk_docks_as_gateDock {first : Chunk} {body : List Chunk} {last : Chunk} {v : Word} {m : Memory 16}
    (hplane : t.arrBuf = first :: (body ++ [last])) (hscan : ScansAs { t with pwm := m } v first body last) :
    ∃ d, exec .gateDock { (takeArrival t).2 with arg0 := v, pwm := m } = .next d ∧
      exec .termArriveChunk s = .next { d with arg0 := t.arg0, pwm := t.pwm, result := .passed, ret0 := 0 } := by
  have hdock : dock t.arrBuf { (takeArrival t).2 with arg0 := v, pwm := m } =
      ((dock t.arrBuf (takeArrival t).2).1,
        (dock t.arrBuf (takeArrival t).2).2.withView { (takeArrival t).2 with arg0 := v, pwm := m }) :=
    dock_withView { (takeArrival t).2 with arg0 := v, pwm := m } (takeArrival t).2 t.arrBuf
  have hgate : exec .gateDock { (takeArrival t).2 with arg0 := v, pwm := m } = _ :=
    withPlane_of_scansAs (s := { (takeArrival t).2 with arg0 := v, pwm := m }) _ hscan
  rw [← hplane, hdock] at hgate
  have hframe := dock_frame t.arrBuf (takeArrival t).2
  unfold DockOnly at hframe
  refine ⟨_, hgate, (execTermArriveChunk_of_docked h harrive hcomplete hauto).trans ?_⟩
  rw [hframe]
  rfl

end

end

/-- Settles O28: a Start chunk and a stray leave no plane to dock. -/
theorem arriveStartOrStray : Obligations.ArriveStartOrStray := by
  refine fun s => ⟨execTermArriveChunk_of_gt, fun hstart hopen => ?_, fun hle hother hidle => ?_⟩
  · have hle : s.arg0.toNat ≤ 1023 := by omega
    rw [← State.operandChunk_toNat hle] at hstart
    rw [← byteOf_operandChunk]
    cases hs : s.arrState with
    | idle => exact execTermArriveChunk_of_open hle (arrive_start_of_idle hstart hs) rfl nofun
    | receiving => exact execTermArriveChunk_of_open hle (arrive_start_of_receiving hstart hs) rfl nofun
    | complete => exact absurd hs hopen
  · rw [← State.operandChunk_toNat hle] at hother
    have harrive := arrive_stray ((State.operandChunk_toNat hle).trans_le hle) hother hidle
    exact execTermArriveChunk_of_open hle harrive hidle nofun

/-- Settles O29: in regular mode the chunk fills the buffer or there is room left; in reject-incoming mode it is not
stored. -/
theorem arrivePayload : Obligations.ArrivePayload := by
  intro s hpayload hs
  have hle : s.arg0.toNat ≤ 1023 := by omega
  rw [← State.operandChunk_toNat hle] at hpayload
  rw [← byteOf_operandChunk]
  refine ⟨fun hmode hroom => ?_, fun hmode hfull => ?_, fun hmode => ?_⟩
  · have harrive := (arrive_payload_of_regular hpayload hs hmode).trans (storePayload_of_room hroom)
    exact execTermArriveChunk_of_open hle harrive hs nofun
  · have harrive := (arrive_payload_of_regular hpayload hs hmode).trans (storePayload_of_full hfull)
    exact execTermArriveChunk_of_open hle harrive rfl nofun
  · exact execTermArriveChunk_of_open hle (arrive_payload_of_reject hpayload hs hmode) hs nofun

/-- Settles O30: only the Check that matches in regular mode leaves a plane, which AUTO_DOCK then docks. -/
theorem arriveCheck : Obligations.ArriveCheck := by
  intro s hcheck hs
  have hle : s.arg0.toNat ≤ 1023 := by omega
  rw [← State.operandChunk_toNat hle] at hcheck
  simp only [ne_eq, ← byteOf_operandChunk_eq_iff]
  refine ⟨fun hmode hauto hsum => ?_, fun hmode hauto hsum => ⟨?_, fun first body v m hbuf hscan => ?_⟩, fun hsum => ?_,
    fun hmode hsum => ?_⟩
  · exact execTermArriveChunk_of_open hle (arrive_check_of_match hcheck hs hmode hsum) rfl
      fun hwaits => nomatch hauto.symm.trans hwaits.2
  · exact execTermArriveChunk_empties hle (arrive_check_of_match hcheck hs hmode hsum) rfl hauto
      (getLsbD_report .arrivalReady s)
  · exact execTermArriveChunk_docks_as_gateDock hle (arrive_check_of_match hcheck hs hmode hsum) rfl hauto
      (congrArg (· ++ [s.operandChunk]) hbuf) hscan
  · exact execTermArriveChunk_of_open hle (arrive_check_of_mismatch hcheck hs hsum) rfl nofun
  · exact execTermArriveChunk_of_open hle (arrive_check_of_reject hcheck hs hmode hsum) rfl nofun

/-- Settles O31: the chunk is dropped, and the plane held is docked where AUTO_DOCK is 1 by then. -/
theorem arriveWhileComplete : Obligations.ArriveWhileComplete := by
  intro s hle hs
  have harrive := arrive_of_complete ((State.operandChunk_toNat hle).trans_le hle) hs
  refine ⟨fun hauto => ?_, fun hauto => ⟨?_, fun first body last v m hbuf hscan => ?_⟩⟩
  · exact execTermArriveChunk_of_open hle harrive hs fun hwaits => nomatch hauto.symm.trans hwaits.2
  · exact execTermArriveChunk_empties hle harrive hs hauto (getLsbD_report .arrivalDiscarded s)
  · exact execTermArriveChunk_docks_as_gateDock hle harrive hs hauto hbuf hscan

end Sys2Proof.Machine
end

section
/-! PROOF of O32: a plane fed to TERM_ARRIVECHUNK chunk by chunk. `Feeding` says what the terminal holds between two of the
chunks; the Start chunk begins it, each chunk of the body keeps it, and the Check chunk completes the plane. -/

namespace Sys2Proof.Machine

/-- A terminal in regular mode that has stored the Start chunk of a plane and the chunks `got` after it, with room for the
chunks `rest` still to come and for the Check (43_terminal.md R144, R146). -/
structure Feeding (id : Byte) (got rest : List Chunk) (s : State) : Prop where
  regular : s.mode = .regular
  undocked : s.autoDock = false
  receiving : s.arrState = .receiving
  unavailable : s.packetAvailable = false
  receivingID : s.receivingID = id
  stored : s.arrBuf = startChunk id :: got
  summed : s.runSum = cks got
  room : got.length + rest.length + 2 ≤ s.params.sizeOfArrivalPlane

section
variable {s t : State} {id : Byte} {c : Chunk} {got rest : List Chunk}

/-! ### Sequences of commands (30_encoding.md R91) -/

theorem availableAfterEach_cons {i : Instr} {v : Word} (vs : List Word) (h : exec i { s with arg0 := v } = .next t) :
    availableAfterEach i (v :: vs) s = t.packetAvailable :: availableAfterEach i vs t := by
  rw [availableAfterEach, h]

/-- TERM_ARRIVECHUNK of a chunk written to ARG0, with AUTO_DOCK 0, is its arrival. -/
theorem termArriveChunk_of_undocked {a : ArrState} (hc : c.toNat ≤ 1023)
    (harrive : arrive c { s with arg0 := BitVec.ofNat 32 c.toNat } = t) (ha : t.arrState = a)
    (hauto : t.autoDock = false) :
    exec .termArriveChunk { s with arg0 := BitVec.ofNat 32 c.toNat } =
      .next { t with ret0 := a.code.setWidth 32, result := .passed } := by
  have hoperand : State.operandChunk { s with arg0 := BitVec.ofNat 32 c.toNat } = c := ofNat_ofNat_toNat (by decide) c
  have hle : (BitVec.ofNat 32 c.toNat).toNat ≤ 1023 := (Nat.mod_le _ _).trans hc
  exact execTermArriveChunk_of_open hle (by rw [hoperand, harrive]) ha fun hwaits => nomatch hauto.symm.trans hwaits.2

/-! ### One chunk of the plane -/

theorem startChunk_toNat (id : Byte) : (startChunk id).toNat = 512 + id.toNat := encodeChunk_toNat id .start

/-- The Start chunk begins the plane (R149). -/
theorem Feeding.begin (hmode : s.mode = .regular) (hauto : s.autoDock = false) (hidle : s.arrState = .idle)
    (hroom : rest.length + 2 ≤ s.params.sizeOfArrivalPlane) :
    ∃ t, exec .termArriveChunk { s with arg0 := BitVec.ofNat 32 (startChunk id).toNat } = .next t ∧
      Feeding id [] rest t := by
  have hlt := id.isLt
  have hstart := startChunk_toNat id
  refine ⟨_, termArriveChunk_of_undocked (by omega) (arrive_start_of_idle (by omega) hidle) rfl hauto, ?_⟩
  exact ⟨hmode, hauto, rfl, rfl, byteOf_encodeChunk id .start, rfl, rfl, by rwa [List.length_nil, Nat.zero_add]⟩

/-- A Byte or Div chunk is stored: there is room for it (R144). -/
theorem Feeding.payload (h : Feeding id got (c :: rest) s) (hc : c.toNat < 512) :
    ∃ t, exec .termArriveChunk { s with arg0 := BitVec.ofNat 32 c.toNat } = .next t ∧ Feeding id (got ++ [c]) rest t := by
  have hroom := h.room
  rw [List.length_cons] at hroom
  have hnotFull : s.arrBuf.length + 1 ≠ s.params.sizeOfArrivalPlane := by
    rw [h.stored, List.length_cons]
    omega
  have harrive := (arrive_payload_of_regular (s := { s with arg0 := BitVec.ofNat 32 c.toNat }) hc h.receiving
    h.regular).trans (storePayload_of_room hnotFull)
  refine ⟨_, termArriveChunk_of_undocked (by omega) harrive h.receiving h.undocked, ?_⟩
  refine ⟨h.regular, h.undocked, h.receiving, h.unavailable, h.receivingID, congrArg (· ++ [c]) h.stored, ?_, ?_⟩
  · show s.runSum + byteOf c = cks (got ++ [c])
    rw [h.summed, cks_append, cks_cons, cks_nil]
    exact congrArg (cks got + ·) (BitVec.add_zero _).symm
  · show (got ++ [c]).length + rest.length + 2 ≤ s.params.sizeOfArrivalPlane
    rw [List.length_append, List.length_singleton]
    omega

/-- The Check chunk of the sum completes the plane (R146). -/
theorem Feeding.check (h : Feeding id got [] s) :
    ∃ t, exec .termArriveChunk { s with arg0 := BitVec.ofNat 32 (BitVec.ofNat 16 (768 + sum8 got) : Chunk).toNat } =
        .next t ∧ t.packetAvailable = true ∧ t.receivingID = id ∧ t.arrBuf = planeOf id got := by
  have hlt := sum8_lt got
  have hcheck := check_toNat got
  have hsum : byteOf (BitVec.ofNat 16 (768 + sum8 got)) = s.runSum := by
    apply BitVec.eq_of_toNat_eq
    rw [h.summed, cks_toNat, byteOf_toNat, hcheck]
    omega
  refine ⟨_, termArriveChunk_of_undocked (by omega)
    (arrive_check_of_match (by omega) h.receiving h.regular hsum) rfl h.undocked, rfl, h.receivingID, ?_⟩
  exact congrArg (· ++ [BitVec.ofNat 16 (768 + sum8 got)]) h.stored

/-! ### The chunks of the body and the Check -/

/-- What the host writes to ARG0 to feed some chunks. -/
def operandsOf (cells : List Chunk) : List Word := cells.map fun c => BitVec.ofNat 32 c.toNat

theorem operandsOf_cons (c : Chunk) (cells : List Chunk) :
    operandsOf (c :: cells) = BitVec.ofNat 32 c.toNat :: operandsOf cells := rfl

/-- What is left of a plane of which `got` came after the Start chunk: the rest of its body and its Check (30_encoding.md
R96). -/
def planeRest (got rest : List Chunk) : List Chunk := rest ++ [BitVec.ofNat 16 (768 + sum8 (got ++ rest))]

theorem planeRest_nil (got : List Chunk) : planeRest got [] = [BitVec.ofNat 16 (768 + sum8 got)] := by
  rw [planeRest, List.append_nil, List.nil_append]

theorem planeRest_cons (got : List Chunk) (c : Chunk) (rest : List Chunk) :
    planeRest got (c :: rest) = c :: planeRest (got ++ [c]) rest := by
  rw [planeRest, planeRest, List.append_assoc, List.singleton_append, List.cons_append]

theorem planeOf_eq_planeRest (id : Byte) (body : List Chunk) : planeOf id body = startChunk id :: planeRest [] body := rfl

/-- Feeding what is left of the plane completes it at the Check and not before. -/
theorem Feeding.completes (h : Feeding id got rest s) (hrest : ∀ c ∈ rest, c.toNat < 512) :
    availableAfterEach .termArriveChunk (operandsOf (planeRest got rest)) s =
        List.replicate rest.length false ++ [true] ∧
      (callEach .termArriveChunk (operandsOf (planeRest got rest)) s).2.receivingID = id ∧
      (callEach .termArriveChunk (operandsOf (planeRest got rest)) s).2.arrBuf = planeOf id (got ++ rest) := by
  induction rest generalizing got s with
  | nil =>
    obtain ⟨t, hexec, havailable, hid, hbuf⟩ := h.check
    rw [planeRest_nil, operandsOf_cons, availableAfterEach_cons _ hexec, callEach_cons _ hexec, havailable,
      List.append_nil]
    exact ⟨rfl, hid, hbuf⟩
  | cons c rest ih =>
    obtain ⟨t, hexec, hfeeding⟩ := h.payload (hrest c List.mem_cons_self)
    obtain ⟨havailable, hid, hbuf⟩ := ih hfeeding fun d hd => hrest d (List.mem_cons_of_mem c hd)
    rw [planeRest_cons, operandsOf_cons, availableAfterEach_cons _ hexec, callEach_cons _ hexec, hfeeding.unavailable,
      havailable]
    rw [List.append_assoc, List.singleton_append] at hbuf
    exact ⟨rfl, hid, hbuf⟩

end

/-- Settles O32: the Start chunk begins the plane, and `Feeding.completes` does the rest. -/
theorem feedingAPlaneCompletesIt : Obligations.FeedingAPlaneCompletesIt := by
  intro s id body hmode hauto hidle hbody hroom
  obtain ⟨t, hexec, hfeeding⟩ := Feeding.begin (id := id) hmode hauto hidle hroom
  obtain ⟨havailable, hid, hbuf⟩ := hfeeding.completes hbody
  show availableAfterEach .termArriveChunk (operandsOf (planeOf id body)) s = _ ∧
    (callEach .termArriveChunk (operandsOf (planeOf id body)) s).2.receivingID = id ∧
    (callEach .termArriveChunk (operandsOf (planeOf id body)) s).2.arrBuf = planeOf id body
  rw [planeOf_eq_planeRest, operandsOf_cons, availableAfterEach_cons _ hexec, callEach_cons _ hexec,
    hfeeding.unavailable]
  exact ⟨congrArg (false :: ·) havailable, hid, hbuf⟩

end Sys2Proof.Machine
end

section
/-! PROOF of O51: received bytes. A live tick is what it does with the bytes it takes, with the others put back
(`tick_of_live`, since no phase looks at `rxFifo`); so the first byte can be taken before the tick begins
(`tick_of_byte`), and a pair is then one chunk, as in TERM_ARRIVECHUNK. What a tick leaves of a block with no byte to
receive is `SendEffect`. -/

namespace Sys2Proof.Machine

/-! ### The bytes a live tick takes (44_runway.md R171, R174) -/

section
variable {s : State} {b : Byte} {more : List Byte}

theorem State.live_of_enabled (henable : s.enable = true) (hlink : s.linkUp = true) : s.live = true := by
  rw [State.live, henable, hlink]
  rfl

/-- What a live tick does with the bytes it takes, in a block whose `rxFifo` it leaves alone. -/
def receiveAndSend (bytes : List Byte) (s : State) : State :=
  endTick (txPhase (updateGates (bytes.foldl rxByteToChunk { s with rejectedThisTick := false })))

theorem receiveAndSend_withFifo (bytes q : List Byte) (s : State) :
    receiveAndSend bytes (s.withFifo q) = (receiveAndSend bytes s).withFifo q := by
  have hfold : bytes.foldl rxByteToChunk { s.withFifo q with rejectedThisTick := false } = _ :=
    foldl_rxByteToChunk_withFifo q { s with rejectedThisTick := false } bytes
  rw [receiveAndSend, hfold, updateGates_withFifo, txPhase_withFifo]
  rfl

/-- A live tick takes the oldest bytes, and the others wait (R174). -/
theorem tick_of_live (hlive : s.live = true) :
    tick s = (receiveAndSend (s.rxFifo.take (rxAmount s)) s).withFifo (s.rxFifo.drop (rxAmount s)) := by
  rw [tick, if_pos hlive]
  exact receiveAndSend_withFifo _ (s.rxFifo.drop (rxAmount s)) s

/-- With a bounded rate the bytes that wait do not matter to the tick. -/
theorem tick_of_rate {k : Nat} (hlive : s.live = true) (hrate : s.params.rxBytesPerTick = some k) :
    tick s = (tick (s.withFifo (s.rxFifo.take k))).withFifo (s.rxFifo.drop k) := by
  have hamount : rxAmount s = k := by rw [rxAmount, hrate]
  have hamount' : rxAmount (s.withFifo (s.rxFifo.take k)) = k := by rw [rxAmount, State.withFifo, hrate]
  have htake : (s.withFifo (s.rxFifo.take k)).rxFifo.take k = s.rxFifo.take k := by
    rw [State.withFifo, List.take_take, Nat.min_self]
  have hlive' : (s.withFifo (s.rxFifo.take k)).live = true := hlive
  rw [tick_of_live hlive, tick_of_live hlive', hamount, hamount', htake, receiveAndSend_withFifo]
  rfl

/-- A tick that takes every byte leaves none. -/
theorem tick_of_all_taken (hlive : s.live = true) (hall : s.rxFifo.length ≤ rxAmount s) :
    tick s = (receiveAndSend s.rxFifo s).withFifo [] := by
  rw [tick_of_live hlive, List.take_of_length_le hall, List.drop_of_length_le hall]

theorem length_le_rxAmount (hfifo : s.rxFifo = b :: more)
    (hrate : ∀ k, s.params.rxBytesPerTick = some k → more.length < k) : s.rxFifo.length ≤ rxAmount s := by
  unfold rxAmount
  cases h : s.params.rxBytesPerTick with
  | none => exact Nat.le_refl _
  | some k =>
    rw [hfifo, List.length_cons]
    exact hrate k h

/-! ### One byte (R175) -/

theorem rxByteToChunk_of_first (hlatch : s.rxLatchValid = false) :
    rxByteToChunk s b = { s with rxLatch := b, rxLatchValid := true } := if_pos hlatch

theorem rxByteToChunk_of_wireError (hlatch : s.rxLatchValid = true) (hbad : 3 < s.rxLatch.toNat) :
    rxByteToChunk s b = { s with rxLatchValid := false }.report .wireError := by
  rw [rxByteToChunk, if_neg (by rw [hlatch]; decide), fromWire_of_gt hbad]

theorem rxByteToChunk_of_chunk {c : Chunk} (hlatch : s.rxLatchValid = true) (hc : fromWire s.rxLatch b = some c) :
    rxByteToChunk s b = arriveAndDock c { s with rxLatchValid := false } := by
  rw [rxByteToChunk, if_neg (by rw [hlatch]; decide), hc]

/-- Reception neither reads nor writes `rejectedThisTick`. -/
theorem rxByteToChunk_setRejected (r : Bool) (s : State) (b : Byte) :
    rxByteToChunk { s with rejectedThisTick := r } b = { rxByteToChunk s b with rejectedThisTick := r } := by
  rcases rxByteToChunk_cases s b with ⟨hlatch, h⟩ | ⟨hlatch, hbad, h⟩ | ⟨hlatch, hchunk, h⟩ <;> rw [h]
  · exact rxByteToChunk_of_first hlatch
  · exact rxByteToChunk_of_wireError hlatch hbad
  · refine (rxByteToChunk_of_chunk (s := { s with rejectedThisTick := r }) hlatch (if_pos hchunk)).trans ?_
    have hframe := arriveAndDock_frame (BitVec.ofNat 16 (s.rxLatch.toNat * 256 + b.toNat)) { s with rxLatchValid := false }
    unfold ReceptionOnly at hframe
    refine (arriveAndDock_withView { s with rejectedThisTick := r, rxLatchValid := false } { s with rxLatchValid := false }
      _).trans ?_
    rw [hframe]
    rfl

/-- Where a tick takes every byte, the oldest may be taken before the tick begins. -/
theorem tick_of_byte (hlive : s.live = true) (hfifo : s.rxFifo = b :: more)
    (hrate : ∀ k, s.params.rxBytesPerTick = some k → more.length < k) :
    tick s = tick (rxByteToChunk (s.withFifo more) b) := by
  have hall := length_le_rxAmount hfifo hrate
  have hframe := TickOnly.rxByteToChunk s b
  unfold TickOnly at hframe
  have hlive' : ((rxByteToChunk s b).withFifo more).live = true := by
    rw [hframe]
    exact hlive
  have hall' : more.length ≤ rxAmount ((rxByteToChunk s b).withFifo more) := by
    rw [hframe]
    cases hr : s.params.rxBytesPerTick with
    | none => simp only [rxAmount, State.withFifo, hr, Nat.le_refl]
    | some k =>
      simp only [rxAmount, State.withFifo, hr]
      exact Nat.le_of_lt (hrate k hr)
  have hfold : receiveAndSend (b :: more) s = receiveAndSend more (rxByteToChunk s b) := by
    rw [receiveAndSend, List.foldl_cons, rxByteToChunk_setRejected]
    rfl
  rw [tick_of_all_taken hlive hall, hfifo, hfold, rxByteToChunk_withFifo, tick_of_all_taken hlive' hall',
    receiveAndSend_withFifo]
  rfl

section
variable (hlive : s.live = true) (hfifo : s.rxFifo = b :: more)
  (hrate : ∀ k, s.params.rxBytesPerTick = some k → more.length < k)
include hlive hfifo hrate

/-- The first byte of a pair waits in the latch. -/
theorem tick_of_first_byte (hlatch : s.rxLatchValid = false) :
    tick s = tick { s with rxFifo := more, rxLatch := b, rxLatchValid := true } :=
  (tick_of_byte hlive hfifo hrate).trans (congrArg tick (rxByteToChunk_of_first hlatch))

/-- A pair that is no chunk is dropped and reported. -/
theorem tick_of_bad_pair (hlatch : s.rxLatchValid = true) (hbad : 3 < s.rxLatch.toNat) :
    tick s = tick ({ s with rxFifo := more, rxLatchValid := false }.report .wireError) :=
  (tick_of_byte hlive hfifo hrate).trans (congrArg tick (rxByteToChunk_of_wireError hlatch hbad))

/-- A pair that is a chunk arrives. -/
theorem tick_of_chunk {c : Chunk} (hlatch : s.rxLatchValid = true) (hc : fromWire s.rxLatch b = some c) :
    tick s = tick (arriveAndDock c { s with rxFifo := more, rxLatchValid := false }) :=
  (tick_of_byte hlive hfifo hrate).trans (congrArg tick (rxByteToChunk_of_chunk hlatch hc))

end

/-- A chunk received by the runway does what TERM_ARRIVECHUNK of it does, but for ARG0, RESULT and RET0 (43_terminal.md
R158). -/
theorem arriveAndDock_as_termArriveChunk {n : Nat} (hn : n ≤ 1023) (s : State) :
    ∃ t, exec .termArriveChunk { s with arg0 := BitVec.ofNat 32 n } = .next t ∧
      arriveAndDock (BitVec.ofNat 16 n) s = { t with arg0 := s.arg0, result := s.result, ret0 := s.ret0 } := by
  have hmod : (BitVec.ofNat 32 n).toNat = n := Nat.mod_eq_of_lt (by omega)
  have hoperand : State.operandChunk { s with arg0 := BitVec.ofNat 32 n } = BitVec.ofNat 16 n :=
    congrArg (BitVec.ofNat 16) hmod
  have hexec : exec .termArriveChunk { s with arg0 := BitVec.ofNat 32 n } = _ :=
    execTermArriveChunk_of_le (s := { s with arg0 := BitVec.ofNat 32 n }) (hmod.trans_le hn)
  have hview : arriveAndDock (BitVec.ofNat 16 n) { s with arg0 := BitVec.ofNat 32 n } = _ :=
    arriveAndDock_withView { s with arg0 := BitVec.ofNat 32 n } s (BitVec.ofNat 16 n)
  have hframe := arriveAndDock_frame (BitVec.ofNat 16 n) s
  unfold ReceptionOnly at hframe
  rw [hoperand, hview] at hexec
  refine ⟨_, hexec, ?_⟩
  rw [hframe]
  rfl

end

/-! ### What a tick with nothing to receive leaves -/

/-- The second state differs from the first in the gates, the departure taxiway, the runway and the tick's own registers
alone, and no event is lost: the gate updates and the transmission phase touch nothing of the reception. -/
structure SendEffect (s t : State) : Prop where
  frame : t = { s with
    gates := t.gates
    tax := t.tax
    departureStatus := t.departureStatus
    errValid := t.errValid
    events := t.events
    tickCount := t.tickCount
    sending := t.sending
    txBuf := t.txBuf
    txChunk := t.txChunk
    txID := t.txID
    txOwner := t.txOwner
    hwStatus := t.hwStatus
    rejectedThisTick := t.rejectedThisTick
    txQueue := t.txQueue }
  events : EventsKept s t

section
variable {s t u : State}

theorem SendEffect.refl (s : State) : SendEffect s s := ⟨rfl, .refl s⟩

theorem SendEffect.trans (h : SendEffect s t) (k : SendEffect t u) : SendEffect s u := by
  refine ⟨?_, h.events.trans k.events⟩
  have hframe := k.frame
  rw [h.frame] at hframe
  exact hframe

theorem SendEffect.report (e : Event) (s : State) : SendEffect s (s.report e) := ⟨rfl, .of_or _ rfl⟩

theorem SendEffect.updateGates (s : State) : SendEffect s (updateGates s) := by
  unfold Machine.updateGates State.reportIf
  split
  · exact ⟨rfl, .of_or _ rfl⟩
  · exact ⟨rfl, .refl s⟩

theorem SendEffect.updateOwner (f : Gate → Gate) (s : State) : SendEffect s (updateOwner f s) := by
  rw [updateOwner_frame]
  exact ⟨rfl, .refl s⟩

theorem SendEffect.sendChunk (s : State) : SendEffect s (sendChunk s) := by
  rcases sendChunk_cases s with h | ⟨q, _, h⟩ | ⟨q, _, h⟩ <;> rw [h]
  · exact .refl s
  · have hsent : SendEffect s { s with txQueue := q, txChunk := s.txChunk + 1 } := ⟨rfl, .refl s⟩
    exact hsent.trans (.updateOwner _ _)
  · have hsent : SendEffect s { s with txQueue := q, txChunk := s.txChunk + 1, sending := false } := ⟨rfl, .refl s⟩
    exact hsent.trans (.trans (.updateOwner _ _) (.trans (.report _ _) (.updateOwner _ _)))

theorem SendEffect.sendIfSending (s : State) : SendEffect s (sendIfSending s) := by
  unfold Machine.sendIfSending
  split
  · exact .sendChunk s
  · exact .refl s

theorem SendEffect.reject (o : TxOwner) (s : State) : SendEffect s (reject o s) := by
  cases o <;> exact ⟨rfl, .of_or _ rfl⟩

theorem SendEffect.loadPlane (o : TxOwner) (id : Byte) (P : List Chunk) (max : Nat) (s : State) :
    SendEffect s (loadPlane o id P max s) := by
  unfold Machine.loadPlane
  split
  · exact .reject o s
  · exact ⟨rfl, .refl s⟩

theorem SendEffect.startPlane (id : Byte) (s : State) : SendEffect s (startPlane id s) := by
  unfold Machine.startPlane
  split
  · split
    · exact .reject _ s
    · split
      · exact .reject _ s
      · exact .loadPlane _ _ _ _ s
  · split
    · exact .reject _ s
    · split
      · exact .reject _ s
      · exact .loadPlane _ _ _ _ s

theorem SendEffect.txPhase (s : State) : SendEffect s (txPhase s) := by
  unfold Machine.txPhase
  split
  · exact .sendChunk s
  · rcases pop_cases s with ⟨_, hpop⟩ | ⟨_, _, _, hpop⟩ <;> rw [hpop]
    · exact .refl s
    · refine SendEffect.trans ?_ (SendEffect.trans (.startPlane _ _) (.sendIfSending _))
      exact ⟨rfl, .refl s⟩

/-- A live tick with no byte to receive. -/
theorem SendEffect.tick_of_silent (hlive : s.live = true) (hsilent : s.rxFifo = []) : SendEffect s (tick s) := by
  have hrx : rxPhase { s with rejectedThisTick := false } = { s with rejectedThisTick := false } :=
    rxPhase_of_no_byte hsilent
  have hbegun : SendEffect s { s with rejectedThisTick := false } := ⟨rfl, .refl s⟩
  rw [tick, if_pos hlive, hrx]
  exact hbegun.trans ((SendEffect.updateGates _).trans ((SendEffect.txPhase _).trans ⟨rfl, .refl _⟩))

end

/-! ### The bytes of one chunk (R174, R175) -/

section
variable {s : State} {b : Byte} (hlive : s.live = true) (hrate : s.params.rxBytesPerTick = none)
include hlive hrate

theorem tick_leaves_first_byte (hfifo : s.rxFifo = [b]) (hlatch : s.rxLatchValid = false) :
    (tick s).rxFifo = [] ∧ (tick s).rxLatch = b ∧ (tick s).rxLatchValid = true ∧ (tick s).arrState = s.arrState ∧
      (tick s).arrBuf = s.arrBuf := by
  have heffect := SendEffect.tick_of_silent (s := { s with rxFifo := [], rxLatch := b, rxLatchValid := true }) hlive rfl
  rw [tick_of_first_byte hlive hfifo (fun k hk => nomatch hrate.symm.trans hk) hlatch, heffect.frame]
  exact ⟨rfl, rfl, rfl, rfl, rfl⟩

theorem tick_drops_bad_pair (hfifo : s.rxFifo = [b]) (hlatch : s.rxLatchValid = true) (hbad : 3 < s.rxLatch.toNat) :
    (tick s).rxFifo = [] ∧ (tick s).rxLatchValid = false ∧ (tick s).events.getLsbD 6 = true ∧
      (tick s).arrState = s.arrState ∧ (tick s).arrBuf = s.arrBuf := by
  have heffect := SendEffect.tick_of_silent
    (s := { s with rxFifo := [], rxLatchValid := false }.report .wireError) hlive rfl
  have hevent := heffect.events.getLsbD (getLsbD_report .wireError _)
  rw [tick_of_bad_pair hlive hfifo (fun k hk => nomatch hrate.symm.trans hk) hlatch hbad]
  refine ⟨?_, ?_, hevent, ?_, ?_⟩
  all_goals
    rw [heffect.frame]
    rfl

/-- A pair that is a Start chunk begins a plane in an Idle terminal: the second byte finds the first in the latch. -/
theorem tick_begins_plane (hfifo : s.rxFifo = [2#8, b]) (hlatch : s.rxLatchValid = false) (hidle : s.arrState = .idle) :
    (tick s).rxFifo = [] ∧ (tick s).rxLatchValid = false ∧ (tick s).arrState = .receiving ∧
      (tick s).receivingID = b ∧ (tick s).arrBuf = [startChunk b] ∧ (tick s).runSum = 0 := by
  have hlt := b.isLt
  have hstart := startChunk_toNat b
  have hbegins : arriveAndDock (startChunk b) { s with rxFifo := [], rxLatch := 2#8, rxLatchValid := false } =
      beginPlane (startChunk b) { s with rxFifo := [], rxLatch := 2#8, rxLatchValid := false } :=
    arriveAndDock_of_open (arrive_start_of_idle (by omega) hidle) nofun
  have hfirst : tick s = tick { s with rxFifo := [b], rxLatch := 2#8, rxLatchValid := true } :=
    tick_of_first_byte hlive hfifo (fun k hk => nomatch hrate.symm.trans hk) hlatch
  have hchunk : fromWire 2#8 b = some (startChunk b) := if_pos (by decide)
  have hsecond : tick { s with rxFifo := [b], rxLatch := 2#8, rxLatchValid := true } =
      tick (arriveAndDock (startChunk b) { s with rxFifo := [], rxLatch := 2#8, rxLatchValid := false }) :=
    tick_of_chunk (s := { s with rxFifo := [b], rxLatch := 2#8, rxLatchValid := true }) hlive rfl
      (fun k hk => nomatch hrate.symm.trans hk) rfl hchunk
  have heffect := SendEffect.tick_of_silent
    (s := beginPlane (startChunk b) { s with rxFifo := [], rxLatch := 2#8, rxLatchValid := false }) hlive rfl
  rw [hfirst, hsecond, hbegins, heffect.frame]
  exact ⟨rfl, rfl, rfl, byteOf_encodeChunk b .start, rfl, rfl⟩

end

/-! ### The link steps (R168, R169) -/

theorem step_rxByte {s : State} {b : Byte} {rest : List Input} (hin : s.inputs = .rxByte b :: rest) :
    step s = .next
      (if s.rxFifo.length < s.params.rxFifoDepth then { s with inputs := rest, rxFifo := s.rxFifo ++ [b] }
      else { s with inputs := rest, events := s.events ||| BitVec.twoPow 19 7 }) := by
  rw [step, hin]
  rfl

theorem step_txTake {s : State} {b : Byte} {queue : List Byte} {rest : List Input} (hin : s.inputs = .txTake :: rest)
    (hqueue : s.txQueue = b :: queue) : step s = .next { s with inputs := rest, txQueue := queue } := by
  simp only [step, hin, applyInput, txTake, hqueue]

theorem step_setLink {s : State} {up : Bool} {rest : List Input} (hin : s.inputs = .setLink up :: rest) :
    step s = .next { s with inputs := rest, linkUp := up } := by
  rw [step, hin]
  rfl

/-- Settles O51: the link steps, `tick_of_rate`, and `tick_of_byte` for each of the three things a byte can do. -/
theorem receivedBytes : Obligations.ReceivedBytes := by
  refine fun s => ⟨fun _ _ => step_rxByte, fun _ _ _ => step_txTake, fun _ _ => step_setLink, fun henable hlink => ?_,
    fun henable hlink hrate => ?_⟩
  all_goals have hlive := State.live_of_enabled henable hlink
  · refine ⟨fun k hk => tick_of_rate hlive hk, fun b more hfifo hrate => ⟨tick_of_first_byte hlive hfifo hrate,
      tick_of_bad_pair hlive hfifo hrate, fun hlatch hchunk => ?_⟩⟩
    have hlt := b.isLt
    obtain ⟨t, hexec, harrived⟩ := arriveAndDock_as_termArriveChunk (n := s.rxLatch.toNat * 256 + b.toNat) (by omega)
      { s with rxFifo := more, rxLatchValid := false }
    exact ⟨t, hexec, (tick_of_chunk hlive hfifo hrate hlatch (if_pos hchunk)).trans (congrArg tick harrived)⟩
  · exact ⟨fun _ => tick_leaves_first_byte hlive hrate, fun _ => tick_drops_bad_pair hlive hrate,
      fun _ => tick_begins_plane hlive hrate⟩

end Sys2Proof.Machine
end

section
/-! PROOF of O44 and O45: what a tick leaves of the host's registers and of the gates. Every tick updates the gates with
`Gate.update`, which is R220 (`Gate.update_updated`); in a live tick the transmission phase then changes the gate it
handles alone (`txPhase_gates`). -/

namespace Sys2Proof.Machine

/-! ### A tick clears no event (44_runway.md R172) -/

theorem EventsKept.rxByteToChunk (s : State) (b : Byte) : EventsKept s (rxByteToChunk s b) := by
  rcases rxByteToChunk_cases s b with ⟨_, h⟩ | ⟨_, _, h⟩ | ⟨_, _, h⟩ <;> rw [h]
  · exact .refl s
  · exact .of_or _ rfl
  · exact EventsKept.arriveAndDock _ { s with rxLatchValid := false }

theorem EventsKept.foldl_rxByteToChunk (bytes : List Byte) (s : State) :
    EventsKept s (bytes.foldl Machine.rxByteToChunk s) := by
  induction bytes generalizing s with
  | nil => exact .refl s
  | cons b bytes ih => exact (EventsKept.rxByteToChunk s b).trans (ih _)

theorem EventsKept.rxPhase (s : State) : EventsKept s (rxPhase s) :=
  EventsKept.foldl_rxByteToChunk _ { s with rxFifo := s.rxFifo.drop (rxAmount s) }

/-- A tick clears no event: each of its phases keeps them. -/
theorem EventsKept.tick (s : State) : EventsKept s (tick s) := by
  unfold Machine.tick
  dsimp only
  split
  · exact EventsKept.trans (EventsKept.rxPhase { s with rejectedThisTick := false })
      ((SendEffect.updateGates _).trans (SendEffect.txPhase _)).events
  · exact (SendEffect.updateGates { s with rejectedThisTick := false }).events

/-- Settles O44: the frame of a tick, and `EventsKept.tick`. -/
theorem tickKeepsHostState : Obligations.TickKeepsHostState := by
  intro s t rest hin hstep
  have htick : t = tick { s with inputs := rest } := by
    rw [step, hin] at hstep
    exact (Host.Outcome.next.inj hstep).symm
  have hevents : s.events &&& t.events = s.events := htick ▸ EventsKept.tick { s with inputs := rest }
  have hframe := tick_frame { s with inputs := rest }
  rw [← htick] at hframe
  unfold TickOnly at hframe
  refine ⟨?_, ?_, ?_, ?_, ?_, ?_, ?_, ?_, ?_, ?_, ?_, ?_, ?_, ?_, ?_, hevents⟩
  all_goals rw [hframe]

/-! ### The gate updates (45_gate.md R220) -/

section
variable {s : State} {g : Gate}

/-- The timer of a gate that waits counts. -/
theorem Gate.nextTimer_of_waiting
    (h : g.status = .readyForDeparture ∨ g.status = .justLeft ∨ g.status = .awaitingArrival) :
    g.nextTimer s.params.tickMS = BitVec.ofNat 32 (timeCounted s g) := if_pos (decide_eq_true h)

/-- The timer of a gate that does not wait stands. -/
theorem Gate.nextTimer_of_not_waiting (h : g.status = .cleaned ∨ g.status = .availableArrival) (tickMS : Nat) :
    g.nextTimer tickMS = g.timer := by
  rcases h with h | h <;> simp [Gate.nextTimer, Gate.waiting, h]

theorem Gate.expires_iff : g.expires s.params.tickMS = true ↔ TimesOut s g := by
  rw [Gate.expires, decide_eq_true_iff]
  refine and_congr_right fun hstatus => ?_
  have hcounted : timeCounted s g < 2 ^ 32 := by
    unfold timeCounted
    omega
  rw [Gate.nextTimer_of_waiting (.inr (.inr hstatus)), BitVec.toNat_ofNat, Nat.mod_eq_of_lt hcounted]

theorem Gate.update_of_timesOut (h : TimesOut s g) :
    g.update s.params.tickMS =
      { g with timer := BitVec.ofNat 32 (timeCounted s g), lastResult := .noConnection, status := .cleaned } := by
  rw [Gate.update, if_pos (Gate.expires_iff.mpr h), Gate.nextTimer_of_waiting (.inr (.inr h.1))]

theorem Gate.update_of_not_timesOut (h : ¬ TimesOut s g) :
    g.update s.params.tickMS = { g with timer := g.nextTimer s.params.tickMS } :=
  if_neg (Gate.expires_iff.not.mpr h)

/-- A gate that waits for the runway cannot time out. -/
theorem Gate.update_of_awaiting_runway (h : g.status = .readyForDeparture ∨ g.status = .justLeft) :
    g.update s.params.tickMS = { g with timer := BitVec.ofNat 32 (timeCounted s g) } := by
  have hout : ¬ TimesOut s g := fun hout => by
    rcases h with h | h <;> exact nomatch h.symm.trans hout.1
  rw [Gate.update_of_not_timesOut hout, Gate.nextTimer_of_waiting (by tauto)]

@[simp] theorem Gate.update_timer (tickMS : Nat) (g : Gate) : (g.update tickMS).timer = g.nextTimer tickMS := by
  unfold Gate.update
  split <;> rfl

/-- A gate update brings a gate into no status but Cleaned. -/
theorem Gate.update_status (tickMS : Nat) (g : Gate) :
    (g.update tickMS).status = g.status ∨ (g.update tickMS).status = .cleaned := by
  unfold Gate.update
  split
  · exact .inr rfl
  · exact .inl rfl

theorem Gate.update_status_ne {status : GateStatus} (h : g.status ≠ status) (hclean : status ≠ .cleaned)
    (tickMS : Nat) : (g.update tickMS).status ≠ status := by
  rcases Gate.update_status tickMS g with hu | hu <;> rw [hu]
  · exact h
  · exact hclean.symm

/-- The update of a gate is that of R220. -/
theorem Gate.update_updated : Updated s g (g.update s.params.tickMS) := by
  refine ⟨fun hrests => ?_, fun hwaits => ?_, Gate.update_of_timesOut⟩
  · have hout : ¬ TimesOut s g := fun hout => by
      rcases hrests with h | h <;> exact nomatch h.symm.trans hout.1
    rw [Gate.update_of_not_timesOut hout, Gate.nextTimer_of_not_waiting hrests]
  · have hout : ¬ TimesOut s g := fun hout => by
      rcases hwaits with h | h | ⟨_, h⟩
      · exact nomatch h.symm.trans hout.1
      · exact nomatch h.symm.trans hout.1
      · exact h hout
    rw [Gate.update_of_not_timesOut hout, Gate.nextTimer_of_waiting (by tauto)]

end

/-- The gate updates report GATE_TIMEOUT where a gate times out. -/
theorem updateGates_eq (s : State) :
    updateGates s =
      { s with
        gates := s.gates.map (Gate.update s.params.tickMS)
        events := if ∃ g ∈ s.gates, TimesOut s g then s.events ||| BitVec.twoPow 19 12 else s.events } := by
  have hany : s.gates.any (Gate.expires s.params.tickMS) = true ↔ ∃ g ∈ s.gates, TimesOut s g := by
    simp only [List.any_eq_true, Gate.expires_iff]
  unfold updateGates State.reportIf
  by_cases hout : ∃ g ∈ s.gates, TimesOut s g
  · rw [if_pos (hany.mpr hout), if_pos hout]
    rfl
  · rw [if_neg (hany.not.mpr hout), if_neg hout]

theorem updateGates_gateTimeout (s : State) :
    (updateGates s).events.getLsbD 12 = true ↔ s.events.getLsbD 12 = true ∨ ∃ g ∈ s.gates, TimesOut s g := by
  rw [updateGates_eq]
  dsimp only
  split
  · next hout => simp [hout]
  · next hout => simp only [hout, or_false]

theorem distinctGates_updateGates {s : State} (h : DistinctGates s) : DistinctGates (updateGates s) := by
  unfold DistinctGates at *
  rwa [updateGates_gates, List.map_map, show (fun g : Gate => g.conf.gateID) ∘ Gate.update s.params.tickMS =
    fun g => g.conf.gateID from funext fun g => by rw [Function.comp_apply, Gate.update_conf]]

/-! ### The gates after a tick -/

section
variable {s : State}

/-- A tick that is not live updates the gates and nothing else (R171, R173). -/
theorem tick_of_not_live (h : s.live = false) : tick s = endTick (updateGates { s with rejectedThisTick := false }) :=
  if_neg (by rw [h]; decide)

/-- A live tick with no byte to receive updates the gates and runs the transmission phase (R171). -/
theorem tick_of_silent (hlive : s.live = true) (hsilent : s.rxFifo = []) :
    tick s = endTick (txPhase (updateGates { s with rejectedThisTick := false })) := by
  have hrx : rxPhase { s with rejectedThisTick := false } = { s with rejectedThisTick := false } :=
    rxPhase_of_no_byte hsilent
  rw [tick, if_pos hlive, hrx]

theorem highway_of_not_live (h : s.enable = false ∨ s.linkUp = false) :
    s.highway = if s.enable = false then .stopped else .closed := by
  rw [State.highway]
  by_cases henable : s.enable = false
  · rw [if_pos henable, if_pos henable]
  · rw [if_neg henable, if_neg henable, if_pos (h.resolve_left henable)]

/-- The gate at a place of the table after a tick that is not live. -/
theorem tick_gate_of_not_live (h : s.live = false) {k : Nat} {g : Gate} (hg : s.gates[k]? = some g) :
    (tick s).gates[k]? = some (g.update s.params.tickMS) := by
  rw [tick_of_not_live h, endTick_gates, updateGates_gates, List.getElem?_map, hg]
  rfl

/-- The gate at a place of the table after a live tick with no byte to receive: its update, which the runway keeps
unless it handles the gate. -/
theorem tick_gate_of_silent (hlive : s.live = true) (hsilent : s.rxFifo = []) {k : Nat} {g : Gate}
    (hg : s.gates[k]? = some g) :
    ∃ h, (tick s).gates[k]? = some h ∧ h.conf = g.conf ∧ h.timer = g.nextTimer s.params.tickMS ∧
      (DistinctGates s → g.status ≠ .readyForDeparture → g.status ≠ .justLeft → h = g.update s.params.tickMS) ∧
      (¬ (s.sending = true ∧ s.txOwner = .gate g.conf.gateID) →
        ¬ (s.sending = false ∧ s.tax.head? = some g.conf.gateID) → h = g.update s.params.tickMS) := by
  obtain ⟨f, hkeeps, hothers, hidle, hgates⟩ := txPhase_gates (updateGates { s with rejectedThisTick := false })
  have hconf := Gate.update_conf s.params.tickMS g
  have hupdated : (updateGates { s with rejectedThisTick := false }).gates[k]? = some (g.update s.params.tickMS) := by
    rw [updateGates_gates, List.getElem?_map, hg]
    rfl
  obtain ⟨hfconf, hftimer⟩ := hkeeps (g.update s.params.tickMS)
  refine ⟨f (g.update s.params.tickMS), ?_, hfconf.trans hconf, hftimer.trans (Gate.update_timer _ g),
    fun hd hready hleft => ?_, fun howner hhead => ?_⟩
  · rw [tick_of_silent hlive hsilent, endTick_gates, hgates, List.getElem?_map, hupdated]
    rfl
  · have hdistinct : DistinctGates (updateGates { s with rejectedThisTick := false }) :=
      distinctGates_updateGates (s := { s with rejectedThisTick := false }) hd
    exact hidle _ (gate?_of_mem hdistinct (List.mem_of_getElem? hupdated))
      (Gate.update_status_ne hready nofun _) (Gate.update_status_ne hleft nofun _)
  · refine hothers _ ?_ ?_ <;> rw [hconf, updateGates_frame]
    · exact howner
    · exact hhead

/-- Settles O45: a tick that is not live is the gate updates, `updateGates_eq`; a live one is `tick_gate_of_silent`. -/
theorem tickUpdatesEveryGate : Obligations.TickUpdatesEveryGate := by
  refine fun s => ⟨fun hoff => ⟨⟨s.gates.map (Gate.update s.params.tickMS), ?_⟩, fun k g hg => ?_⟩,
    fun henable hlink hsilent => ⟨?_, fun k g hg => ?_⟩⟩
  · have hhighway : (updateGates { s with rejectedThisTick := false }).highway =
        if s.enable = false then .stopped else .closed := by
      rw [updateGates_frame]
      exact highway_of_not_live hoff
    rw [tick_of_not_live (s.live_eq_false hoff), endTick, hhighway, updateGates_eq]
    rfl
  · exact ⟨_, tick_gate_of_not_live (s.live_eq_false hoff) hg, Gate.update_updated⟩
  · rw [tick_of_silent (State.live_of_enabled henable hlink) hsilent, endTick_events, txPhase_gateTimeout]
    exact updateGates_gateTimeout { s with rejectedThisTick := false }
  · obtain ⟨h, hh, hconf, htimer, hidle, hothers⟩ :=
      tick_gate_of_silent (State.live_of_enabled henable hlink) hsilent hg
    refine ⟨h, hh, hconf, fun hwaits => htimer.trans (Gate.nextTimer_of_waiting hwaits),
      fun hrests => htimer.trans (Gate.nextTimer_of_not_waiting hrests _), fun hd hready hleft => ?_,
      fun howner hhead => ?_⟩
    · exact hidle hd hready hleft ▸ Gate.update_updated
    · exact hothers howner hhead ▸ Gate.update_updated

end

end Sys2Proof.Machine
end

section
/-! PROOF of O48 and O50: what the runway does with a plane at its start and at its end. A tick that takes an ID off the
taxiway (`Boards`) starts its plane in the state `State.boarding`: the plane is loaded and its first chunk sent
(`tick_of_loaded`), or it is rejected (`tick_of_rejected`). The last chunk moves the owner on
(`sendChunk_mem_of_last`). -/

namespace Sys2Proof.Machine

/-! ### The owner of the plane being sent (44_runway.md R179) -/

section
variable {s : State} {g : Gate} {c : Chunk}

theorem Gate.leaving_of_ready (h : g.status = .readyForDeparture) : g.leaving = { g with status := .justLeft } :=
  if_pos h

theorem Gate.left_leaving_of_left (h : g.status = .justLeft) (role : Role) : g.leaving.left role = g.departed role := by
  have hleaving : g.leaving = g := if_neg (by rw [h]; decide)
  rw [hleaving]
  exact if_pos h

theorem updateGates_mem (hg : g ∈ s.gates) : g.update s.params.tickMS ∈ (updateGates s).gates := by
  rw [updateGates_gates]
  exact List.mem_map_of_mem hg

theorem updateOwner_mem (f : Gate → Gate) (hg : g ∈ s.gates) (howner : s.txOwner = .gate g.conf.gateID) :
    f g ∈ (updateOwner f s).gates := by
  rw [updateOwner_gates]
  exact List.mem_map.mpr ⟨g, hg, if_pos howner⟩

/-- The owner after a chunk that is not the last. -/
theorem sendChunk_mem_of_more (hget : s.txBuf[s.txChunk]? = some c) (hmore : s.txChunk + 1 < s.txBuf.length)
    (hg : g ∈ s.gates) (howner : s.txOwner = .gate g.conf.gateID) : g.leaving ∈ (sendChunk s).gates := by
  unfold sendChunk
  rw [hget]
  dsimp only
  rw [if_neg (by rw [updateOwner_frame]; exact Nat.ne_of_lt hmore)]
  exact updateOwner_mem Gate.leaving hg howner

/-- The owner after the last chunk. -/
theorem sendChunk_mem_of_last (hget : s.txBuf[s.txChunk]? = some c) (hlast : s.txChunk + 1 = s.txBuf.length)
    (hg : g ∈ s.gates) (howner : s.txOwner = .gate g.conf.gateID) :
    g.leaving.left s.params.role ∈ (sendChunk s).gates := by
  unfold sendChunk
  rw [hget]
  dsimp only
  rw [if_pos (by rw [updateOwner_frame]; exact hlast)]
  refine updateOwner_mem (Gate.left s.params.role) (updateOwner_mem Gate.leaving hg howner) ?_
  rw [Gate.leaving_conf, State.report_txOwner]
  exact (updateOwner_txOwner _ _).trans howner

/-- The owner of the plane after a tick that sends its last chunk: its update, moved on. -/
theorem tick_mem_of_sending_last (h : Sending s [c]) (hg : g ∈ s.gates) (howner : s.txOwner = .gate g.conf.gateID)
    (hstatus : g.status = .justLeft) :
    (g.update s.params.tickMS).departed s.params.role ∈ (tick s).gates := by
  have hu := h.updateGates
  have hleft : (g.update s.params.tickMS).status = .justLeft := by
    rw [Gate.update_of_awaiting_runway (.inr hstatus)]
    exact hstatus
  have hmem : g.update s.params.tickMS ∈ (updateGates { s with rejectedThisTick := false }).gates :=
    updateGates_mem (s := { s with rejectedThisTick := false }) hg
  have hsent := sendChunk_mem_of_last hu.getElem? hu.length hmem
    (by rw [Gate.update_conf, updateGates_frame]; exact howner)
  rw [Gate.left_leaving_of_left hleft, updateGates_frame] at hsent
  rw [tick_of_sending h, endTick_gates, updateGates_frame]
  exact hsent

end

/-- Settles O50: the owner after the last chunk, by `Gate.departed`. -/
theorem lastChunkMovesTheGate : Obligations.LastChunkMovesTheGate := by
  intro s g _ hg henable hlink hsilent hsending hlast howner hstatus
  obtain ⟨c, hleft⟩ : ∃ c, s.txBuf.drop s.txChunk = [c] :=
    List.length_eq_one_iff.mp (by rw [List.length_drop]; omega)
  have hupdate := Gate.update_of_awaiting_runway (s := s) (.inr hstatus)
  refine ⟨_, tick_mem_of_sending_last ⟨henable, hlink, hsilent, hsending, hleft⟩ hg howner hstatus, ?_,
    fun hrole => ?_, fun hrole => ?_⟩
  · rw [Gate.departed_conf, Gate.update_conf]
  all_goals
    rw [hrole, hupdate]
    exact ⟨rfl, rfl⟩

/-! ### The tick that takes an ID off the taxiway (44_runway.md R178) -/

/-- A live block with nothing to receive and no plane being sent that has this ID at the head of its taxiway. -/
structure Boards (s : State) (id : Byte) (rest : List Byte) : Prop where
  enabled : s.enable = true
  linked : s.linkUp = true
  silent : s.rxFifo = []
  free : s.sending = false
  taxiway : s.tax = id :: rest

/-- The state in which the tick starts the plane of the ID it takes: the gates are updated and the ID is off the
taxiway. -/
def State.boarding (rest : List Byte) (s : State) : State :=
  { updateGates { s with rejectedThisTick := false } with
    tax := rest
    departureStatus := if rest.length > 0 then .departureAvailable else .initialised }

theorem State.boarding_frame (rest : List Byte) (s : State) :
    s.boarding rest =
      { s with
        gates := s.gates.map (Gate.update s.params.tickMS)
        events := (s.boarding rest).events
        tax := rest
        departureStatus := (s.boarding rest).departureStatus
        rejectedThisTick := false } := by
  unfold State.boarding
  rw [updateGates_eq]

@[simp] theorem State.boarding_gates (rest : List Byte) (s : State) :
    (s.boarding rest).gates = s.gates.map (Gate.update s.params.tickMS) := by
  rw [State.boarding_frame]

@[simp] theorem State.boarding_params (rest : List Byte) (s : State) : (s.boarding rest).params = s.params := by
  rw [State.boarding_frame]

@[simp] theorem State.boarding_errPlane (rest : List Byte) (s : State) : (s.boarding rest).errPlane = s.errPlane := by
  rw [State.boarding_frame]

/-- The lookup of a gate finds its update. -/
theorem State.boarding_gate? (rest : List Byte) (s : State) (id : Byte) :
    (s.boarding rest).gate? id = (s.gate? id).map (Gate.update s.params.tickMS) := by
  have hpred : (fun g : Gate => g.conf.gateID == id) ∘ Gate.update s.params.tickMS = fun g => g.conf.gateID == id :=
    funext fun g => by rw [Function.comp_apply, Gate.update_conf]
  rw [State.gate?, State.boarding_gates, List.find?_map, hpred, State.gate?]

/-- Such a tick updates the gates, takes the ID, starts its plane, and sends a chunk where it is now sending. -/
theorem tick_of_boards {s : State} {id : Byte} {rest : List Byte} (h : Boards s id rest) :
    tick s = endTick (sendIfSending (startPlane id (s.boarding rest))) := by
  have hfree : (updateGates { s with rejectedThisTick := false }).sending = false := by
    rw [updateGates_frame]
    exact h.free
  have htax : (updateGates { s with rejectedThisTick := false }).tax = id :: rest := by
    rw [updateGates_frame]
    exact h.taxiway
  have hpop : pop (updateGates { s with rejectedThisTick := false }) = some (id, s.boarding rest) := by
    rw [pop, htax]
    rfl
  rw [tick_of_silent (State.live_of_enabled h.enabled h.linked) h.silent, txPhase,
    if_neg (by rw [hfree]; decide), hpop]

/-! ### The plane of an ID (44_runway.md R180) -/

section
variable {s : State} {id : Byte} {g : Gate}

theorem startPlane_of_ready (h8 : id ≠ 8) (hg : s.gate? id = some g) (hready : g.status = .readyForDeparture) :
    startPlane id s = loadPlane (.gate id) id g.depPlane g.conf.maxSizeOfPlane s := by
  rw [startPlane, if_neg h8, hg]
  exact if_neg (not_not.mpr hready)

theorem startPlane_of_not_ready (h8 : id ≠ 8) (hnone : ∀ g, s.gate? id = some g → g.status ≠ .readyForDeparture) :
    startPlane id s = reject .none s := by
  rw [startPlane, if_neg h8]
  cases hg : s.gate? id with
  | none => rfl
  | some g => exact if_pos (hnone g hg)

theorem startPlane_of_errorPlane (hvalid : s.errValid = true) (hg : s.gate? 8 = some g) :
    startPlane 8 s = loadPlane .errSlot 8 s.errPlane.chunks g.conf.maxSizeOfPlane s := by
  rw [startPlane, if_pos rfl, if_neg (by rw [hvalid]; decide), hg]

theorem startPlane_of_no_errorPlane (hvalid : s.errValid = false) : startPlane 8 s = reject .none s := by
  rw [startPlane, if_pos rfl, if_pos hvalid]

/-- What a rejection writes beside the gates. -/
theorem reject_frame (o : TxOwner) (s : State) :
    reject o s =
      { s with
        gates := (reject o s).gates
        rejectedThisTick := true
        events := s.events ||| Event.planeRejected.mask } := by
  cases o <;> rfl

/-- A gate whose plane is rejected. -/
theorem reject_mem (hg : g ∈ s.gates) (hid : g.conf.gateID = id) :
    { g with lastResult := .failed, status := .cleaned } ∈ (reject (.gate id) s).gates :=
  List.mem_map.mpr ⟨g, hg, if_pos hid⟩

end

/-! ### What the tick leaves (44_runway.md R179, R180, R182) -/

section
variable {s : State} {id : Byte} {rest : List Byte} {g : Gate} {o : TxOwner}

/-- What is left where the plane of the ID is rejected: nothing is sent, and the error is reported. -/
structure Rejected (s : State) (rest : List Byte) (t : State) : Prop where
  tax : t.tax = rest
  sending : t.sending = false
  txQueue : t.txQueue = s.txQueue
  hwStatus : t.hwStatus = .error
  events : t.events.getLsbD 8 = true
  errValid : t.errValid = s.errValid

theorem tick_of_reject (h : Boards s id rest) (hstart : startPlane id (s.boarding rest) = reject o (s.boarding rest)) :
    tick s = endTick (reject o (s.boarding rest)) := by
  have hfree : (reject o (s.boarding rest)).sending = false := by
    rw [reject_frame, State.boarding_frame]
    exact h.free
  rw [tick_of_boards h, hstart, sendIfSending, if_neg (by rw [hfree]; decide)]

theorem tick_of_rejected (h : Boards s id rest)
    (hstart : startPlane id (s.boarding rest) = reject o (s.boarding rest)) : Rejected s rest (tick s) := by
  have hhighway : (reject o (s.boarding rest)).highway = .error := by
    rw [reject_frame, State.boarding_frame]
    simp [State.highway, h.enabled, h.linked]
  have hevent : (reject o (s.boarding rest)).events.getLsbD 8 = true := by
    rw [reject_frame]
    exact getLsbD_report .planeRejected _
  rw [tick_of_reject h hstart]
  refine ⟨?_, ?_, ?_, hhighway, hevent, ?_⟩
  all_goals rw [endTick, reject_frame, State.boarding_frame]
  exact h.free

/-- The gate whose plane is rejected. -/
theorem tick_mem_of_reject (h : Boards s g.conf.gateID rest) (hg : g ∈ s.gates)
    (hstart : startPlane g.conf.gateID (s.boarding rest) = reject (.gate g.conf.gateID) (s.boarding rest)) :
    { g.update s.params.tickMS with lastResult := .failed, status := .cleaned } ∈ (tick s).gates := by
  have hmem : g.update s.params.tickMS ∈ (s.boarding rest).gates := by
    rw [State.boarding_gates]
    exact List.mem_map_of_mem hg
  rw [tick_of_reject h hstart]
  exact reject_mem hmem (by rw [Gate.update_conf])

/-- What is left where a plane is started: its first chunk is sent. -/
structure Started (s : State) (o : TxOwner) (id : Byte) (rest : List Byte) (c : Chunk) (more : List Chunk)
    (t : State) : Prop where
  tax : t.tax = rest
  sending : t.sending = true
  txBuf : t.txBuf = c :: more
  txChunk : t.txChunk = 1
  txID : t.txID = id
  txOwner : t.txOwner = o
  rejectedThisTick : t.rejectedThisTick = false
  txQueue : t.txQueue = s.txQueue ++ wireBytes c
  errValid : t.errValid = if o = .errSlot then false else s.errValid

/-- A state with a plane loaded (R180). -/
def State.loaded (o : TxOwner) (id : Byte) (P : List Chunk) (s : State) : State :=
  { s with
    txBuf := P
    txChunk := 0
    txID := id
    txOwner := o
    sending := true
    errValid := if o = .errSlot then false else s.errValid }

theorem loadPlane_of_fitting {P : List Chunk} {max : Nat} (hmax : P.length ≤ max)
    (hrunway : P.length ≤ s.params.runwayBufferSize) : loadPlane o id P max s = s.loaded o id P :=
  if_neg (not_or.mpr ⟨Nat.not_lt.mpr hmax, Nat.not_lt.mpr hrunway⟩)

theorem loadPlane_of_long {P : List Chunk} {max : Nat}
    (hlong : max < P.length ∨ s.params.runwayBufferSize < P.length) : loadPlane o id P max s = reject o s :=
  if_pos hlong

theorem tick_of_load {P : List Chunk} (h : Boards s id rest)
    (hstart : startPlane id (s.boarding rest) = (s.boarding rest).loaded o id P) :
    tick s = endTick (sendChunk ((s.boarding rest).loaded o id P)) := by
  rw [tick_of_boards h, hstart, sendIfSending]
  exact congrArg endTick (if_pos rfl)

section
variable {c : Chunk} {more : List Chunk} (h : Boards s id rest) (hmore : more ≠ [])
  (hstart : startPlane id (s.boarding rest) = (s.boarding rest).loaded o id (c :: more))
include h hmore hstart

theorem tick_of_loaded : Started s o id rest c more (tick s) := by
  obtain ⟨gates, hsent⟩ := sendChunk_of_more (s := (s.boarding rest).loaded o id (c :: more)) (c := c) rfl
    (Nat.succ_lt_succ (List.length_pos_iff.mpr hmore))
  rw [tick_of_load h hstart, hsent]
  refine ⟨?_, rfl, rfl, rfl, rfl, rfl, ?_, ?_, ?_⟩
  all_goals
    rw [endTick, State.loaded, State.boarding_frame]

/-- The gate whose plane is started. -/
theorem tick_mem_of_loaded (ho : o = .gate g.conf.gateID) (hg : g ∈ s.gates) (hready : g.status = .readyForDeparture) :
    { g.update s.params.tickMS with status := .justLeft } ∈ (tick s).gates := by
  have hstill : (g.update s.params.tickMS).status = .readyForDeparture := by
    rw [Gate.update_of_awaiting_runway (.inl hready)]
    exact hready
  have hmem : g.update s.params.tickMS ∈ ((s.boarding rest).loaded o id (c :: more)).gates := by
    rw [State.loaded, State.boarding_frame]
    exact List.mem_map_of_mem hg
  have hsent := sendChunk_mem_of_more (c := c) rfl (Nat.succ_lt_succ (List.length_pos_iff.mpr hmore)) hmem
    (by rw [Gate.update_conf]; exact ho)
  rw [Gate.leaving_of_ready hstill] at hsent
  rw [tick_of_load h hstart]
  exact hsent

end

/-- The lookup at the start of a gate's plane. -/
theorem State.boarding_gate?_of_mem (hd : DistinctGates s) (hg : g ∈ s.gates) (rest : List Byte) :
    (s.boarding rest).gate? g.conf.gateID = some (g.update s.params.tickMS) := by
  rw [State.boarding_gate?, gate?_of_mem hd hg]
  rfl

/-- The start of the plane of a gate that is ready. -/
theorem startPlane_of_gate (h8 : g.conf.gateID ≠ 8) (hd : DistinctGates s) (hg : g ∈ s.gates)
    (hready : g.status = .readyForDeparture) (rest : List Byte) :
    startPlane g.conf.gateID (s.boarding rest) =
      loadPlane (.gate g.conf.gateID) g.conf.gateID g.depPlane g.conf.maxSizeOfPlane (s.boarding rest) := by
  have hupdate := Gate.update_of_awaiting_runway (s := s) (.inl hready)
  have hfound := State.boarding_gate?_of_mem hd hg rest
  rw [hupdate] at hfound
  exact startPlane_of_ready (g := { g with timer := BitVec.ofNat 32 (timeCounted s g) }) h8 hfound hready

/-- The start of the error plane. -/
theorem startPlane_of_errorGate (hvalid : s.errValid = true) (hd : DistinctGates s) (hg : g ∈ s.gates)
    (h8 : g.conf.gateID = 8) (rest : List Byte) :
    startPlane 8 (s.boarding rest) =
      loadPlane .errSlot 8 s.errPlane.chunks g.conf.maxSizeOfPlane (s.boarding rest) := by
  have hfound := State.boarding_gate?_of_mem hd hg rest
  have hvalid' : (s.boarding rest).errValid = true := by
    rw [State.boarding_frame]
    exact hvalid
  rw [h8] at hfound
  rw [startPlane_of_errorPlane hvalid' hfound, Gate.update_conf, State.boarding_errPlane]

/-- The start of an ID without a plane: no gate that is ready has it, and no error plane is held for ID 8. -/
theorem startPlane_of_no_plane
    (hnone : (id ≠ 8 ∧ ∀ g ∈ s.gates, g.conf.gateID = id → g.status ≠ .readyForDeparture) ∨
      (id = 8 ∧ s.errValid = false)) (rest : List Byte) :
    startPlane id (s.boarding rest) = reject .none (s.boarding rest) := by
  rcases hnone with ⟨h8, hnone⟩ | ⟨rfl, hvalid⟩
  · refine startPlane_of_not_ready h8 fun g' hfound => ?_
    rw [State.boarding_gate?] at hfound
    obtain ⟨g, hg, rfl⟩ := Option.map_eq_some_iff.mp hfound
    obtain ⟨hmem, hid⟩ := mem_of_gate? hg
    exact Gate.update_status_ne (hnone g hmem hid) nofun _
  · refine startPlane_of_no_errorPlane ?_
    rw [State.boarding_frame]
    exact hvalid

end

/-- Settles O48: each clause is one way of `startPlane`, and then `tick_of_loaded` or `tick_of_rejected`. -/
theorem runwayStartsOrRejects : Obligations.RunwayStartsOrRejects := by
  intro s id rest henable hlink hsilent hfree htax
  have h : Boards s id rest := ⟨henable, hlink, hsilent, hfree, htax⟩
  refine ⟨fun h8 g c more hd hg hid hready hplane hmore hmax hrunway => ?_,
    fun hid hvalid g hd hg hgid hmax hrunway => ?_, fun h8 g hd hg hid hready hlong => ?_,
    fun hid hvalid g hd hg hgid hlong => ?_, fun hnone => ?_⟩
  · subst hid
    have hstart : startPlane g.conf.gateID (s.boarding rest) =
        (s.boarding rest).loaded (.gate g.conf.gateID) g.conf.gateID (c :: more) := by
      rw [startPlane_of_gate h8 hd hg hready, loadPlane_of_fitting hmax (by rwa [State.boarding_params]), hplane]
    have hstarted := tick_of_loaded h hmore hstart
    refine ⟨hstarted.tax, hstarted.sending, hstarted.txBuf.trans hplane.symm, hstarted.txChunk, hstarted.txID,
      hstarted.txOwner, hstarted.rejectedThisTick, hstarted.txQueue, _,
      tick_mem_of_loaded h hmore hstart rfl hg hready, ?_⟩
    rw [Gate.update_of_awaiting_runway (.inl hready)]
    exact ⟨rfl, rfl, rfl, rfl⟩
  · subst hid
    have hstart : startPlane 8 (s.boarding rest) = (s.boarding rest).loaded .errSlot 8 s.errPlane.chunks := by
      rw [startPlane_of_errorGate hvalid hd hg hgid, loadPlane_of_fitting hmax (by rwa [State.boarding_params])]
    have hstarted := tick_of_loaded h (List.cons_ne_nil _ _) hstart
    exact ⟨hstarted.tax, hstarted.sending, hstarted.txBuf, hstarted.txChunk, hstarted.txID, hstarted.txOwner,
      hstarted.errValid, hstarted.txQueue⟩
  · subst hid
    have hstart : startPlane g.conf.gateID (s.boarding rest) = reject (.gate g.conf.gateID) (s.boarding rest) := by
      rw [startPlane_of_gate h8 hd hg hready, loadPlane_of_long (by rwa [State.boarding_params])]
    have hrejected := tick_of_rejected h hstart
    exact ⟨hrejected.tax, hrejected.sending, hrejected.txQueue, hrejected.hwStatus, hrejected.events, _,
      tick_mem_of_reject h hg hstart, Gate.update_conf _ g, rfl, rfl⟩
  · subst hid
    have hstart : startPlane 8 (s.boarding rest) = reject .errSlot (s.boarding rest) := by
      rw [startPlane_of_errorGate hvalid hd hg hgid, loadPlane_of_long (by rwa [State.boarding_params])]
    have hrejected := tick_of_rejected h hstart
    exact ⟨hrejected.tax, hrejected.sending, hrejected.txQueue, hrejected.hwStatus, hrejected.events,
      hrejected.errValid.trans hvalid⟩
  · have hrejected := tick_of_rejected h (startPlane_of_no_plane hnone rest)
    exact ⟨hrejected.tax, hrejected.sending, hrejected.txQueue, hrejected.hwStatus, hrejected.events⟩

end Sys2Proof.Machine
end

section
/-! PROOF of O35, O37 and O38: the accepted GATE_REQUEST, GATE_READ and GATE_STATUS. -/

namespace Sys2Proof.Machine

section
variable {s : State} {g : Gate} {L : List (List Byte)} {id : Byte}

/-! ### The taxiway (43_terminal.md R151) -/

theorem put_of_mem (h : id ∈ s.tax) : put id s = (.failed, s) := by
  rcases put_cases id s with ⟨_, hput⟩ | ⟨hnew, _⟩ | ⟨hnew, _⟩
  · exact hput
  · exact absurd h hnew
  · exact absurd h hnew

theorem put_of_full (hnew : id ∉ s.tax) (hfull : s.tax.length = s.params.sizeOfDepartureTaxiway) :
    put id s = (.failed, { s with departureStatus := .notEnoughSpace }) := by
  rcases put_cases id s with ⟨hmem, _⟩ | ⟨_, _, hput⟩ | ⟨_, hroom, _⟩
  · exact absurd hmem hnew
  · exact hput
  · exact absurd hfull hroom

theorem put_of_taxiwayTakes (h : TaxiwayTakes s id) :
    put id s = (.passed, { s with tax := s.tax ++ [id], departureStatus := .departureAvailable }) := by
  obtain ⟨hnew, hroom⟩ := h
  rcases put_cases id s with ⟨hmem, _⟩ | ⟨_, hfull, _⟩ | ⟨_, _, hput⟩
  · exact absurd hmem hnew
  · exact absurd hfull hroom
  · exact hput

/-! ### GATE_REQUEST (45_gate.md R201 to R203) -/

/-- A good plane that the taxiway takes goes into its gate. -/
theorem requestWith_of_taken (htypes : ParamsOK L g.conf.departTypes)
    (hsize : (planeWith g.conf.gateID s.params.divPayload L).length ≤ g.conf.maxSizeOfPlane)
    (htakes : TaxiwayTakes s g.conf.gateID) :
    requestWith g L s = finish .passed
      { s.updateGate g.conf.gateID (Gate.requested (planeWith g.conf.gateID s.params.divPayload L)) with
        tax := s.tax ++ [g.conf.gateID]
        departureStatus := .departureAvailable
        ret0 := retNat (planeWith g.conf.gateID s.params.divPayload L).length } := by
  rw [requestWith, if_neg (by rw [Bool.not_eq_false, typesOK_iff]; exact htypes), build_eq, if_pos hsize,
    put_of_taxiwayTakes htakes]
  rfl

/-! ### GATE_READ (R206) -/

/-- With a good destination GATE_READ looks for an answer in its gate, and then at the length of the records. -/
theorem execGateRead_of_mem (hd : DistinctGates s) (hg : g ∈ s.gates) (hv : s.arg0.toNat = g.conf.gateID.toNat)
    (hin : InRange s.arg1 s.params.bwmSize) :
    execGateRead s =
      if g.status ≠ .availableArrival then finish .bypassed s
      else if (recordBytes g.arrParams).length > rangeLen s.arg1 then finish .failed s
      else
        finish .passed
          { s.updateGate g.conf.gateID (fun h => { h with status := .cleaned }) with
            bwm := s.bwm.writeRange (rangeAddr s.arg1) (recordBytes g.arrParams)
            ret0 := retNat (recordBytes g.arrParams).length
            ret1 := retNat g.arrParams.length } := by
  rw [execGateRead, if_neg (by rw [fits_eq_false_iff]; exact not_not.mpr hin), gateOfWord?_of_mem hd hg hv, argRange_len,
    argRange_addr]
  rfl

/-! ### GATE_STATUS (R207) -/

theorem execGateStatus_of_mem (hd : DistinctGates s) (hg : g ∈ s.gates) (hv : s.arg0.toNat = g.conf.gateID.toNat) :
    execGateStatus s = finish .passed
      { s with
        ret0 := g.status.code.setWidth 32
        ret1 := g.lastResult.code.setWidth 32
        ret2 := g.timer
        ret3 := g.conf.arrivalTimeOutMS } := by
  rw [execGateStatus, gateOfWord?_of_mem hd hg hv]

end

/-- Settles O35: the records parse (`parseRecords_of_recordsAt`), and the plane they make goes into the gate. -/
theorem gateRequestAccepted : Obligations.GateRequestAccepted := by
  intro s g L hd hg hv hmaster h8 hcleaned hrecords htypes hsize htakes
  obtain ⟨_, hfree⟩ := execGateRequest_of_mem hd hg hv hrecords.1
  obtain ⟨_, hparsed⟩ := hfree hmaster h8 hcleaned
  exact (hparsed L (parseRecords_of_recordsAt hrecords)).trans (requestWith_of_taken htypes hsize htakes)

/-- Settles O37: the range, the gate, and then `execGateRead_of_mem`, branch by branch. -/
theorem gateRead : Obligations.GateRead := by
  intro s
  show (_ → execGateRead s = _) ∧ _
  refine ⟨fun hbad => if_pos ((fits_eq_false_iff _ _).mpr hbad), fun hin hnone => ?_, fun g hd hg hv hin => ?_⟩
  · show execGateRead s = finish .incompatibility s
    rw [execGateRead, if_neg (by rw [fits_eq_false_iff]; exact not_not.mpr hin), gateOfWord?_of_namesNoGate hnone]
  have hexec := execGateRead_of_mem hd hg hv hin
  refine ⟨fun hstatus => hexec.trans (if_pos hstatus), fun hstatus hlong => ?_, fun hstatus _ hfits => ?_⟩
  all_goals replace hexec := hexec.trans (if_neg (not_not.mpr hstatus))
  · exact hexec.trans (if_pos hlong)
  · exact ⟨_, hexec.trans (if_neg (Nat.not_lt.mpr hfits)), stored_writeRange _ _ _⟩

/-- Settles O38: the numbers of R49 and R229, status by status and code by code. -/
theorem gateStatus : Obligations.GateStatus := by
  intro s
  refine ⟨fun hnone => ?_, fun g hd hg hv => ?_⟩
  · show execGateStatus s = finish .incompatibility s
    rw [execGateStatus, gateOfWord?_of_namesNoGate hnone]
  · refine (execGateStatus_of_mem hd hg hv).trans (congrArg₂ (fun status code : Word => finish .passed
      { s with ret0 := status, ret1 := code, ret2 := g.timer, ret3 := g.conf.arrivalTimeOutMS }) ?_ ?_)
    · cases g.status <;> rfl
    · cases g.lastResult <;> rfl

end Sys2Proof.Machine
end

section
/-! PROOF of O40 and O41: the dock of a Request on a Slave (45_gate.md R204), and the planes no gate takes (R210). Both may
owe an error plane (R211), which `sendError_eq` says in the words of Safety.lean. An answer is queued or fails by a second
update of the gate that stored the parameters; `updateGate_updateGate` makes the two one. -/

namespace Sys2Proof.Machine

/-! ### The error plane (45_gate.md R211) -/

theorem errorPlane_eq (div : Byte) (e : ResultCode) : errorPlane div e = errorPlaneOf div e.code.toNat := by
  have hcode : (e.code.setWidth 8 : Byte).toNat = e.code.toNat := by cases e <;> rfl
  have hbyte : encodeChunk (e.code.setWidth 8) .byte = BitVec.ofNat 16 e.code.toNat := by
    rw [encodeChunk, hcode, ChunkType.index, Nat.mul_zero, Nat.zero_add]
  have hcheck : encodeChunk (div + e.code.setWidth 8) .check =
      BitVec.ofNat 16 (768 + (div.toNat + e.code.toNat) % 256) := by
    rw [encodeChunk, BitVec.toNat_add, hcode, ChunkType.index]
  rw [errorPlane, hbyte, hcheck]
  rfl

/-- An error plane is queued where the taxiway takes ID 8, and else dropped and reported. -/
theorem sendError_eq (e : ResultCode) (s : State) : sendError e s = afterErrorPlane s e.code.toNat := by
  rcases sendError_cases e s with ⟨hrefused, hsend⟩ | ⟨hnew, hroom, hsend⟩
  · exact hsend.trans (if_pos hrefused).symm
  · rw [errorPlane_eq] at hsend
    exact hsend.trans (if_neg (not_or.mpr ⟨hnew, hroom⟩)).symm

section
variable {s t : State} {g : Gate} {L A : List (List Byte)} {answer : Option (List (List Byte))} {id : Byte}

/-! ### The answer of a Slave (R204, R205) -/

theorem answerOf_of_answersWith (h : AnswersWith s.params id L answer) : answerOf s.params id L = answer := by
  obtain ⟨hecho, happlication⟩ := h
  unfold answerOf
  split
  · next hid => exact (hecho (.inl hid)).symm
  · next hid =>
    split
    · next hfn => exact (hecho (.inr hfn)).symm
    · next k hfn => exact (happlication k hid hfn).symm

/-- An answer of the wrong kinds or too long for its gate fails (R195, R202). -/
theorem queueAnswer_of_unfit (h : g.conf.maxSizeOfPlane < (planeWith g.conf.gateID s.params.divPayload A).length ∨
    ¬ ParamsOK A g.conf.departTypes) : queueAnswer g A s = answerFailed g.conf.gateID s := by
  rw [queueAnswer, build_eq]
  split
  · rfl
  · next hbuild =>
    have hsize := (Option.ite_none_right_eq_some.mp hbuild).1
    exact if_pos (by rw [← Bool.not_eq_true, typesOK_iff]; exact h.resolve_left (Nat.not_lt.mpr hsize))

section
variable (hsize : (planeWith g.conf.gateID s.params.divPayload A).length ≤ g.conf.maxSizeOfPlane)
  (htypes : ParamsOK A g.conf.departTypes)
include hsize htypes

/-- A good answer fails where the taxiway refuses its gate. -/
theorem queueAnswer_of_put_failed (hput : put g.conf.gateID s = (.failed, t)) :
    queueAnswer g A s = answerFailed g.conf.gateID t := by
  rw [queueAnswer, build_eq, if_pos hsize]
  dsimp only
  rw [if_neg (by rw [Bool.not_eq_false, typesOK_iff]; exact htypes), hput]

/-- A good answer that the taxiway takes goes into its gate. -/
theorem queueAnswer_of_put_passed (hput : put g.conf.gateID s = (.passed, t)) :
    queueAnswer g A s = (.passed, (t.updateGate g.conf.gateID
      (Gate.requested (planeWith g.conf.gateID s.params.divPayload A))).report .answerQueued) := by
  rw [queueAnswer, build_eq, if_pos hsize]
  dsimp only
  rw [if_neg (by rw [Bool.not_eq_false, typesOK_iff]; exact htypes), hput]

end

/-! ### The dock of a Request (R204) -/

/-- A gate with the parameters of a Request stored. -/
def Gate.storing (L : List (List Byte)) (g : Gate) : Gate := { g with arrParams := L }

/-- Two changes of the gate of an ID are one, where the first keeps the ID. -/
theorem updateGate_updateGate {f h : Gate → Gate} (hf : ∀ g, (f g).conf = g.conf) (s : State) :
    (s.updateGate id f).updateGate id h = s.updateGate id (h ∘ f) := by
  have hgates : ((s.updateGate id f).gates.map fun g => if g.conf.gateID = id then h g else g) =
      s.gates.map fun g => if g.conf.gateID = id then (h ∘ f) g else g := by
    rw [State.updateGate_gates, List.map_map]
    refine List.map_congr_left fun g _ => ?_
    by_cases hid : g.conf.gateID = id
    · simp only [Function.comp_apply, if_pos hid, hf]
    · simp only [Function.comp_apply, if_neg hid]
  exact congrArg (fun gates => { s with gates := gates }) hgates

/-- A gate whose answer fails keeps the parameters of the Request. -/
theorem answerFailed_storing (s : State) :
    answerFailed id (s.updateGate id (Gate.storing L)) =
      (.failed, (s.updateGate id fun h => { h with arrParams := L, lastResult := .failed }).report .planeRejected) :=
  congrArg (fun t => (ResultCode.failed, t.report .planeRejected))
    (updateGate_updateGate (f := Gate.storing L) (fun _ => rfl) s)

theorem slaveDock_of_busy (h : g.status ≠ .cleaned) : slaveDock g L s = (.failed, sendError .failed s) := if_pos h

section
variable (hcleaned : g.status = .cleaned)
include hcleaned

theorem slaveDock_of_no_answer (h : answerOf s.params g.conf.gateID L = none) :
    slaveDock g L s = (.passed, s.updateGate g.conf.gateID (Gate.storing L)) := by
  rw [slaveDock, if_neg (not_not.mpr hcleaned), h]
  rfl

variable (hanswer : answerOf s.params g.conf.gateID L = some A)
include hanswer

theorem slaveDock_of_answer :
    slaveDock g L s = queueAnswer g A (s.updateGate g.conf.gateID (Gate.storing L)) := by
  rw [slaveDock, if_neg (not_not.mpr hcleaned), hanswer]
  rfl

/-- The dock of a Request whose answer is unfit, or of a queued ID. -/
theorem slaveDock_of_unfit (h : g.conf.maxSizeOfPlane < (planeWith g.conf.gateID s.params.divPayload A).length ∨
    ¬ ParamsOK A g.conf.departTypes ∨ g.conf.gateID ∈ s.tax) :
    slaveDock g L s = (.failed, (s.updateGate g.conf.gateID fun h =>
      { h with arrParams := L, lastResult := .failed }).report .planeRejected) := by
  rw [slaveDock_of_answer hcleaned hanswer, ← answerFailed_storing]
  by_cases hfit : (planeWith g.conf.gateID s.params.divPayload A).length ≤ g.conf.maxSizeOfPlane ∧
      ParamsOK A g.conf.departTypes
  · obtain ⟨hsize, htypes⟩ := hfit
    have hqueued := (h.resolve_left (Nat.not_lt.mpr hsize)).resolve_left (not_not.mpr htypes)
    exact queueAnswer_of_put_failed hsize htypes (put_of_mem hqueued)
  · rw [not_and_or, Nat.not_le] at hfit
    exact queueAnswer_of_unfit hfit

variable (hsize : (planeWith g.conf.gateID s.params.divPayload A).length ≤ g.conf.maxSizeOfPlane)
  (htypes : ParamsOK A g.conf.departTypes)
include hsize htypes

/-- The dock of a Request whose answer finds the taxiway full. -/
theorem slaveDock_of_full (hnew : g.conf.gateID ∉ s.tax) (hfull : s.tax.length = s.params.sizeOfDepartureTaxiway) :
    slaveDock g L s = (.failed, ({ s with departureStatus := .notEnoughSpace }.updateGate g.conf.gateID fun h =>
      { h with arrParams := L, lastResult := .failed }).report .planeRejected) := by
  rw [slaveDock_of_answer hcleaned hanswer, ← answerFailed_storing]
  exact queueAnswer_of_put_failed hsize htypes (put_of_full hnew hfull)

/-- The dock of a Request whose answer is queued. -/
theorem slaveDock_of_queued (htakes : TaxiwayTakes s g.conf.gateID) :
    slaveDock g L s = (.passed,
      ({ s with tax := s.tax ++ [g.conf.gateID], departureStatus := .departureAvailable }.updateGate g.conf.gateID
        (Gate.requested (planeWith g.conf.gateID s.params.divPayload A) ∘ Gate.storing L)).report .answerQueued) := by
  rw [slaveDock_of_answer hcleaned hanswer, ← updateGate_updateGate (f := Gate.storing L) fun _ => rfl]
  exact queueAnswer_of_put_passed hsize htypes (put_of_taxiwayTakes htakes)

end

end

/-- Settles O40: the dock is `slaveDock`, which the status of the gate, its answer and the taxiway decide. -/
theorem gateDockRequestOnSlave : Obligations.GateDockRequestOnSlave := by
  rintro s g segments L answer hd hg h8 hrole hid rfl hplane hlen htypes hanswers
  have hdock := dock_of_fitting hd hg h8 hid hlen htypes
  rw [if_neg (by rw [hrole]; decide)] at hdock
  have hexec : exec .gateDock s = _ := execGateDock_of_planeAt hplane
  rw [hdock] at hexec
  have hanswer := answerOf_of_answersWith hanswers
  refine ⟨fun hbusy => ?_, fun hcleaned hnone => ?_, fun A hcleaned hsome => ⟨fun hunfit => ?_, fun hsize hkinds =>
    ⟨fun hnew hfull => ?_, fun htakes => ?_⟩⟩⟩
  · rw [hexec, slaveDock_of_busy hbusy, sendError_eq]
    rfl
  · rw [hexec, slaveDock_of_no_answer hcleaned (hanswer.trans hnone)]
    rfl
  all_goals replace hanswer := hanswer.trans hsome
  · rw [hexec, slaveDock_of_unfit hcleaned hanswer hunfit]
    rfl
  · rw [hexec, slaveDock_of_full hcleaned hanswer hsize hkinds hnew hfull]
    rfl
  · rw [hexec, slaveDock_of_queued hcleaned hanswer hsize hkinds htakes]
    rfl

/-! ### The planes that are not accepted (R210) -/

section
variable {s : State} {g : Gate} {P : List Chunk} {e : ResultCode} {first : Chunk} {mid : List Chunk} {last : Chunk}

theorem dock_of_no_gate (h8 : planeID P ≠ 8) (hnone : ∀ g ∈ s.gates, g.conf.gateID ≠ planeID P) :
    dock P s = (.incompatibility, sendError .incompatibility s) := by
  have hgate : s.gate? (planeID P) = none := List.find?_eq_none.mpr fun g hg => by simpa using hnone g hg
  rw [dock, if_neg h8, hgate]

theorem dock_of_gate (hd : DistinctGates s) (hg : g ∈ s.gates) (hid : g.conf.gateID = planeID P) (h8 : planeID P ≠ 8) :
    dock P s = dockAtGate g P s := by
  rw [dock, if_neg h8, ← hid, gate?_of_mem hd hg]

theorem dockAtGate_of_error (h : analyzePlane s.params.supported P = .error e) :
    dockAtGate g P s = (e, sendError e s) := by
  rw [dockAtGate, h]

/-- A good plane that is too long for its gate, or whose parameters are of the wrong kinds, is refused (R195, R197). -/
theorem dockAtGate_of_unfit {info : PlaneInfo} (h : analyzePlane s.params.supported P = .ok info)
    (hunfit : g.conf.maxSizeOfPlane < P.length ∨ ¬ ParamsOK (planeParams P) g.conf.arriveTypes) :
    dockAtGate g P s = (.failed, sendError .failed s) := by
  rw [dockAtGate, h]
  dsimp only
  rw [← ite_or]
  exact if_pos (by rwa [← Bool.not_eq_true, typesOK_iff])

/-- GATE_DOCK of a plane whose dock owes an error plane (R208, R211). -/
theorem execGateDock_of_refused (h : ScansAs s s.arg0 first mid last)
    (hdock : dock (first :: (mid ++ [last])) s = (e, sendError e s)) :
    execGateDock s = .next { afterErrorPlane s e.code.toNat with result := e } := by
  rw [execGateDock, withPlane_of_scansAs _ h, hdock, sendError_eq]
  rfl

end

/-- Settles O41: the checks of `analyze` in their order, and then the size and the kinds of the parameters. -/
theorem gateDockRefused : Obligations.GateDockRefused := by
  intro s first mid last hplane h8
  have ⟨_, _, hfirst, hmid, hlast, _⟩ := hplane
  have hplaneID := planeID_cons (first := first) (mid ++ [last])
  rw [← hplaneID] at h8 ⊢
  have hanalysis := (analyzePlane_of_plane s.params.supported hfirst hmid hlast).trans (checkPlane_eq _ hmid)
  refine ⟨fun hnone => execGateDock_of_refused hplane (dock_of_no_gate h8 hnone), fun g hd hg hid => ?_⟩
  have hdock := dock_of_gate hd hg hid h8
  rw [← hplaneID, ← hid] at hanalysis
  refine ⟨fun hsum => ?_, fun hsum => ⟨fun hunsupported => ?_, fun hsupported => ⟨fun hbad => ?_, ?_⟩⟩⟩
  · replace hanalysis := hanalysis.trans (if_pos hsum)
    exact execGateDock_of_refused hplane (hdock.trans (dockAtGate_of_error hanalysis))
  all_goals replace hanalysis := hanalysis.trans (if_neg (not_not.mpr hsum))
  · replace hanalysis := hanalysis.trans (if_pos hunsupported)
    exact execGateDock_of_refused hplane (hdock.trans (dockAtGate_of_error hanalysis))
  all_goals replace hanalysis := hanalysis.trans (if_neg (not_not.mpr hsupported))
  · replace hanalysis := hanalysis.trans (if_pos hbad)
    exact execGateDock_of_refused hplane (hdock.trans (dockAtGate_of_error hanalysis))
  · rintro segments rfl hunfit
    replace hanalysis := hanalysis.trans (if_neg (structure_of_segments segments))
    rw [← plane_length first _ last, ← planeParams_of_segments first last] at hunfit
    exact execGateDock_of_refused hplane (hdock.trans (dockAtGate_of_unfit hanalysis hunfit))

end Sys2Proof.Machine
end

section
/-! PROOF of O43: no command abandons a Request (45_gate.md R217, log 21). `WaitingKept s t` says that every gate that
waits in `s` (R220) is the same in `t`: so it is after every command but the two that dock. A dock changes a gate that does
not wait, or a Master's gate that awaited the answer docked; `KeptOrAnswered` says so. -/

namespace Sys2Proof.Machine

/-! ### Gates that wait (R220) -/

/-- Every gate that waits for its plane to leave or for its answer is as it was. -/
def WaitingKept (s t : State) : Prop :=
  ∀ (k : Nat) (g : Gate), s.gates[k]? = some g → g.waiting = true → t.gates[k]? = some g

/-- Every gate that waits is as it was, or it holds the answer it awaited, on a Master, and ANSWER_AVAILABLE is
reported. -/
def KeptOrAnswered (s t : State) : Prop :=
  ∀ (k : Nat) (g : Gate), s.gates[k]? = some g → g.waiting = true →
    ∃ h, t.gates[k]? = some h ∧
      (h = g ∨ (g.status = .awaitingArrival ∧ h.status = .availableArrival ∧ h.lastResult = .passed ∧
        s.params.role = .master ∧ t.events.getLsbD 13 = true))

section
variable {s t : State} {g : Gate} {L : List (List Byte)}

theorem Gate.waiting_eq_false (h : g.status = .cleaned ∨ g.status = .availableArrival) : g.waiting = false := by
  rcases h with h | h <;> rw [Gate.waiting, h] <;> rfl

theorem WaitingKept.of_gates (h : t.gates = s.gates) : WaitingKept s t := fun k g hg _ => by rwa [h]

/-- A change of a gate that does not wait. -/
theorem WaitingKept.of_gatesWith {f : Gate → Gate} (hd : DistinctGates s) (hg : g ∈ s.gates)
    (hidle : g.status = .cleaned ∨ g.status = .availableArrival) (h : t.gates = gatesWith s g.conf.gateID f) :
    WaitingKept s t := by
  intro k g' hk hwaiting
  have hne : g'.conf.gateID ≠ g.conf.gateID := fun hid => by
    rw [List.inj_on_of_nodup_map hd (List.mem_of_getElem? hk) hg hid, Gate.waiting_eq_false hidle] at hwaiting
    cases hwaiting
  rw [h, gatesWith, List.getElem?_map, hk, Option.map_some, if_neg hne]

theorem WaitingKept.keptOrAnswered (h : WaitingKept s t) : KeptOrAnswered s t := fun k g hk hwaiting =>
  ⟨g, h k g hk hwaiting, .inl rfl⟩

/-! ### Docking (R196 to R204) -/

/-- A Slave's dock changes its gate alone. -/
theorem slaveDock_gates (hcleaned : g.status = .cleaned) :
    ∃ f, (slaveDock g L s).2.gates = gatesWith s g.conf.gateID f := by
  cases hanswer : answerOf s.params g.conf.gateID L with
  | none => exact ⟨_, congrArg (·.2.gates) (slaveDock_of_no_answer hcleaned hanswer)⟩
  | some A =>
    by_cases hsize : (planeWith g.conf.gateID s.params.divPayload A).length ≤ g.conf.maxSizeOfPlane
    · by_cases htypes : ParamsOK A g.conf.departTypes
      · rcases put_cases g.conf.gateID s with ⟨hqueued, _⟩ | ⟨hnew, hfull, _⟩ | ⟨hnew, hroom, _⟩
        · exact ⟨_, congrArg (·.2.gates) (slaveDock_of_unfit hcleaned hanswer (.inr (.inr hqueued)))⟩
        · exact ⟨_, congrArg (·.2.gates) (slaveDock_of_full hcleaned hanswer hsize htypes hnew hfull)⟩
        · exact ⟨_, congrArg (·.2.gates) (slaveDock_of_queued hcleaned hanswer hsize htypes ⟨hnew, hroom⟩)⟩
      · exact ⟨_, congrArg (·.2.gates) (slaveDock_of_unfit hcleaned hanswer (.inr (.inl htypes)))⟩
    · exact ⟨_, congrArg (·.2.gates) (slaveDock_of_unfit hcleaned hanswer (.inl (Nat.lt_of_not_le hsize)))⟩

theorem slaveDock_waitingKept (hd : DistinctGates s) (hg : g ∈ s.gates) : WaitingKept s (slaveDock g L s).2 := by
  by_cases hcleaned : g.status = .cleaned
  · obtain ⟨f, hf⟩ := slaveDock_gates (s := s) (L := L) hcleaned
    exact .of_gatesWith hd hg (.inl hcleaned) hf
  · rw [slaveDock_of_busy hcleaned]
    exact .of_gates (sendError_gates _ s)

theorem masterDock_keptOrAnswered (hd : DistinctGates s) (hg : g ∈ s.gates) (hrole : s.params.role = .master) :
    KeptOrAnswered s (masterDock g L s).2 := by
  by_cases hawaits : g.status = .awaitingArrival
  · rw [masterDock_of_awaiting hawaits]
    intro k g' hk _
    have hreported : (s.events ||| Event.answerAvailable.mask).getLsbD 13 = true := by simp [Event.mask, Event.bit]
    refine ⟨if g'.conf.gateID = g.conf.gateID then g'.docked L else g', ?_, ?_⟩
    · rw [State.report_gates, State.updateGate_gates, List.getElem?_map, hk, Option.map_some]
    by_cases hid : g'.conf.gateID = g.conf.gateID
    · have hsame : g' = g := List.inj_on_of_nodup_map hd (List.mem_of_getElem? hk) hg hid
      rw [if_pos hid, hsame]
      exact .inr ⟨hawaits, rfl, rfl, hrole, hreported⟩
    · exact .inl (if_neg hid)
  · rw [masterDock_of_not_awaiting hawaits]
    exact (WaitingKept.of_gates (t := s.report .unsolicitedPlane) rfl).keptOrAnswered

/-- Gate 8 never waits, so the dock of an error plane changes no gate that does. -/
theorem dockError_waitingKept (hs : s.Inv) (P : List Chunk) : WaitingKept s (dockError P s).2 := by
  unfold dockError
  split
  · exact .of_gates rfl
  · next g8 hfound =>
    obtain ⟨hmem, hid⟩ := mem_of_gate? hfound
    split
    · exact .of_gates rfl
    · split_ifs
      · exact .of_gates rfl
      · exact .of_gates rfl
      · rw [← hid]
        exact .of_gatesWith hs.distinctGates hmem ((hs.gates g8 hmem).errorGate hid) rfl

theorem dockAtGate_keptOrAnswered (hd : DistinctGates s) (hg : g ∈ s.gates) (P : List Chunk) :
    KeptOrAnswered s (dockAtGate g P s).2 := by
  have herror : ∀ e, KeptOrAnswered s (sendError e s) := fun e =>
    (WaitingKept.of_gates (sendError_gates e s)).keptOrAnswered
  unfold dockAtGate
  split
  · exact herror _
  · split_ifs
    · exact herror _
    · exact herror _
    · split
      · next hrole => exact masterDock_keptOrAnswered hd hg hrole
      · exact (slaveDock_waitingKept hd hg).keptOrAnswered

theorem dock_keptOrAnswered (hs : s.Inv) (P : List Chunk) : KeptOrAnswered s (dock P s).2 := by
  unfold dock
  split
  · exact (dockError_waitingKept hs P).keptOrAnswered
  · split
    · exact (WaitingKept.of_gates (sendError_gates _ s)).keptOrAnswered
    · next hfound => exact dockAtGate_keptOrAnswered hs.distinctGates (mem_of_gate? hfound).1 P

/-- The arrival of a chunk changes no gate but by its dock (43_terminal.md R158). -/
theorem arriveAndDock_keptOrAnswered (hs : s.Inv) (c : Chunk) : KeptOrAnswered s (arriveAndDock c s) := by
  have hframe := arrive_frame c s
  unfold ArrivalOnly at hframe
  have hgates : (arrive c s).gates = s.gates := by rw [hframe]
  have hparams : (arrive c s).params = s.params := by rw [hframe]
  rcases arriveAndDock_cases c s with ⟨_, h⟩ | ⟨_, _, h⟩ <;> rw [h]
  · exact (WaitingKept.of_gates hgates).keptOrAnswered
  · obtain ⟨harrived, _⟩ := arrive_keepsInv c s hs
    obtain ⟨htaken, _⟩ := takeArrival_keepsInv (arrive c s) harrived
    have hdock := dock_keptOrAnswered htaken (arrive c s).arrBuf
    unfold KeptOrAnswered at hdock ⊢
    rwa [show (takeArrival (arrive c s)).2.gates = s.gates from hgates,
      show (takeArrival (arrive c s)).2.params = s.params from hparams] at hdock

end

/-! ### Commands that change no gate -/

/-- The gates are as they were. -/
def GatesKept (s t : State) : Prop := t.gates = s.gates

theorem NextHas.waitingKept {s : State} {a : Answer} (h : NextHas (GatesKept s) a) : NextHas (WaitingKept s) a :=
  fun t ht => .of_gates (h t ht)

/-- A test of a command, with what it does either way. -/
theorem NextHas.guard {Q : State → Prop} {p : Prop} {_ : Decidable p} {a b : Answer} (ha : NextHas Q a)
    (hb : NextHas Q b) : NextHas Q (if p then a else b) := by
  split
  · exact ha
  · exact hb

section
variable (s : State)

theorem execChunkEncode_gates : NextHas (GatesKept s) (execChunkEncode s) := by
  unfold execChunkEncode
  split <;> exact .finish rfl

theorem execChunkDecode_gates : NextHas (GatesKept s) (execChunkDecode s) := by
  unfold execChunkDecode
  split <;> exact .finish rfl

theorem execChunkToWire_gates : NextHas (GatesKept s) (execChunkToWire s) := by
  unfold execChunkToWire
  split <;> exact .finish rfl

theorem execChunkFromWire_gates : NextHas (GatesKept s) (execChunkFromWire s) := by
  unfold execChunkFromWire
  split <;> exact .finish rfl

theorem execScalarToBytes_gates : NextHas (GatesKept s) (execScalarToBytes s) := by
  refine .guard (.finish rfl) ?_
  split
  · exact .finish rfl
  · exact .finish rfl
  · exact .guard (.finish rfl) (.finish rfl)

theorem execScalarToData_gates : NextHas (GatesKept s) (execScalarToData s) := by
  refine .guard (.finish rfl) ?_
  split
  · exact .finish rfl
  · exact .finish rfl
  · exact .guard (.finish rfl) (.reading fun _ => .guard (.finish rfl) (.finish rfl))

theorem execScalarGetArraySize_gates : NextHas (GatesKept s) (execScalarGetArraySize s) := by
  unfold execScalarGetArraySize
  split <;> exact .finish rfl

theorem execPktCreate_gates : NextHas (GatesKept s) (execPktCreate s) :=
  .guard (.finish rfl) (.guard (.finish rfl) (.reading fun _ => .guard (.finish rfl) (.finish rfl)))

theorem execPktAppend_gates : NextHas (GatesKept s) (execPktAppend s) :=
  .guard (.finish rfl) (.guard (.finish rfl) (.reading fun _ => .reading fun _ => .finish rfl))

theorem execPktSegFromBytes_gates : NextHas (GatesKept s) (execPktSegFromBytes s) :=
  .guard (.finish rfl) (.guard (.finish rfl) (.reading fun _ => .finish rfl))

theorem execPktVerifyCheckSum_gates : NextHas (GatesKept s) (execPktVerifyCheckSum s) :=
  .withPlane (fun _ => rfl) fun _ => .guard (.finish rfl) (.finish rfl)

theorem execPktGetTotalSize_gates : NextHas (GatesKept s) (execPktGetTotalSize s) :=
  .withPlane (fun _ => rfl) fun _ => .finish rfl

theorem execPktVerifyID_gates : NextHas (GatesKept s) (execPktVerifyID s) :=
  .guard (.finish rfl) (.guard (.finish rfl)
    (.reading fun _ => .guard (.finish rfl) (.guard (.finish rfl) (.finish rfl))))

theorem execPktGetParamCount_gates : NextHas (GatesKept s) (execPktGetParamCount s) :=
  .withPlane (fun _ => rfl) fun _ => .finish rfl

theorem execPktSegToBytes_gates : NextHas (GatesKept s) (execPktSegToBytes s) := by
  refine .guard (.finish rfl) (.guard (.finish rfl) (.reading fun _ => .guard (.finish rfl) (.reading fun _ => ?_)))
  split
  · exact .finish rfl
  · exact .guard (.finish rfl) (.finish rfl)

theorem execPktFullyAnalyze_gates : NextHas (GatesKept s) (execPktFullyAnalyze s) :=
  .guard (.finish rfl) (.withAnalysis (fun _ => rfl) fun _ => .finish rfl)

theorem execPktGetParameter_gates : NextHas (GatesKept s) (execPktGetParameter s) := by
  refine .guard (.finish rfl) (.withAnalysis (fun _ => rfl) fun _ => ?_)
  split
  · exact .finish rfl
  · exact .guard (.finish rfl) (.finish rfl)

theorem execTermPut_gates : NextHas (GatesKept s) (execTermPut s) := .finish (put_gates _ s)

theorem execTermPop_gates : NextHas (GatesKept s) (execTermPop s) := by
  unfold execTermPop
  rcases pop_cases s with ⟨_, hpop⟩ | ⟨_, _, _, hpop⟩ <;> rw [hpop] <;> exact .finish rfl

theorem execTermTakeArrival_gates : NextHas (GatesKept s) (execTermTakeArrival s) :=
  .guard (.finish rfl) (.guard (.finish rfl) (.guard (.finish rfl) (.finish rfl)))

theorem execGateStatus_gates : NextHas (GatesKept s) (execGateStatus s) := by
  unfold execGateStatus
  split <;> exact .finish rfl

end

/-! ### The gate commands (R201, R206) -/

section
variable {s : State} {g : Gate}

theorem requestWith_waitingKept (hd : DistinctGates s) (hg : g ∈ s.gates) (hcleaned : g.status = .cleaned)
    (L : List (List Byte)) : NextHas (WaitingKept s) (requestWith g L s) := by
  refine .guard (.finish (.of_gates rfl)) ?_
  split
  · exact .finish (.of_gates rfl)
  · next P _ =>
    rcases put_cases g.conf.gateID s with ⟨_, hput⟩ | ⟨_, _, hput⟩ | ⟨_, _, hput⟩ <;> rw [hput]
    · exact .finish (.of_gates rfl)
    · exact .finish (.of_gates rfl)
    · exact .finish (.of_gatesWith hd hg (.inl hcleaned) (f := Gate.requested P) rfl)

theorem execGateRequest_waitingKept (hd : DistinctGates s) : NextHas (WaitingKept s) (execGateRequest s) := by
  refine .guard (.finish (.of_gates rfl)) ?_
  split
  · exact .finish (.of_gates rfl)
  · next g hfound =>
    split
    · exact .finish (.of_gates rfl)
    · next hopen =>
      obtain ⟨hmem, _⟩ := mem_of_gateOfWord? s hfound
      obtain ⟨_, _, hcleaned⟩ : _ ∧ _ ∧ g.status = .cleaned := by simpa only [not_or, not_not] using hopen
      refine .reading fun parsed => ?_
      split
      · exact .finish (.of_gates rfl)
      · exact requestWith_waitingKept hd hmem hcleaned _

theorem execGateRead_waitingKept (hd : DistinctGates s) : NextHas (WaitingKept s) (execGateRead s) := by
  refine .guard (.finish (.of_gates rfl)) ?_
  split
  · exact .finish (.of_gates rfl)
  · next g hfound =>
    split
    · exact .finish (.of_gates rfl)
    · next hanswer =>
      obtain ⟨hmem, _⟩ := mem_of_gateOfWord? s hfound
      refine .guard (.finish (.of_gates rfl)) (.finish ?_)
      exact .of_gatesWith hd hmem (.inr (not_not.mp hanswer)) (f := fun g => { g with status := .cleaned }) rfl

/-- Every command but the two that dock, whatever its operands. -/
theorem exec_waitingKept (hd : DistinctGates s) {i : Instr} (hdock : i ≠ .gateDock) (harrive : i ≠ .termArriveChunk) :
    NextHas (WaitingKept s) (exec i s) := by
  cases i with
  | nop => exact NextHas.waitingKept (.finish rfl)
  | chunkEncode => exact (execChunkEncode_gates s).waitingKept
  | chunkDecode => exact (execChunkDecode_gates s).waitingKept
  | chunkToWire => exact (execChunkToWire_gates s).waitingKept
  | chunkFromWire => exact (execChunkFromWire_gates s).waitingKept
  | scalarToBytes => exact (execScalarToBytes_gates s).waitingKept
  | scalarToData => exact (execScalarToData_gates s).waitingKept
  | scalarGetArraySize => exact (execScalarGetArraySize_gates s).waitingKept
  | pktCreate => exact (execPktCreate_gates s).waitingKept
  | pktAppend => exact (execPktAppend_gates s).waitingKept
  | pktSegFromBytes => exact (execPktSegFromBytes_gates s).waitingKept
  | pktVerifyCheckSum => exact (execPktVerifyCheckSum_gates s).waitingKept
  | pktGetTotalSize => exact (execPktGetTotalSize_gates s).waitingKept
  | pktVerifyID => exact (execPktVerifyID_gates s).waitingKept
  | pktGetParamCount => exact (execPktGetParamCount_gates s).waitingKept
  | pktSegToBytes => exact (execPktSegToBytes_gates s).waitingKept
  | pktFullyAnalyze => exact (execPktFullyAnalyze_gates s).waitingKept
  | pktGetParameter => exact (execPktGetParameter_gates s).waitingKept
  | termPut => exact (execTermPut_gates s).waitingKept
  | termIsOnTaxiway => exact NextHas.waitingKept (.finish rfl)
  | termPop => exact (execTermPop_gates s).waitingKept
  | termArriveChunk => exact absurd rfl harrive
  | termTakeArrival => exact (execTermTakeArrival_gates s).waitingKept
  | termArrivalInfo => exact NextHas.waitingKept (.finish rfl)
  | termReset => exact NextHas.waitingKept (.finish rfl)
  | gateRequest => exact execGateRequest_waitingKept hd
  | gateRead => exact execGateRead_waitingKept hd
  | gateStatus => exact (execGateStatus_gates s).waitingKept
  | gateDock => exact absurd rfl hdock

/-! ### The commands that dock (43_terminal.md R158, R208) -/

theorem execGateDock_keptOrAnswered (hs : s.Inv) : NextHas (KeptOrAnswered s) (execGateDock s) :=
  .withPlane (fun _ => (WaitingKept.of_gates rfl).keptOrAnswered) fun P => .finish (dock_keptOrAnswered hs P)

theorem execTermArriveChunk_keptOrAnswered (hs : s.Inv) : NextHas (KeptOrAnswered s) (execTermArriveChunk s) := by
  unfold execTermArriveChunk
  split
  · exact .finish (WaitingKept.of_gates rfl).keptOrAnswered
  · exact .finish (arriveAndDock_keptOrAnswered hs _)

theorem exec_keptOrAnswered (hs : s.Inv) (i : Instr) : NextHas (KeptOrAnswered s) (exec i s) := by
  by_cases hdock : i = .gateDock
  · rw [hdock]
    exact execGateDock_keptOrAnswered hs
  · by_cases harrive : i = .termArriveChunk
    · rw [harrive]
      exact execTermArriveChunk_keptOrAnswered hs
    · exact fun t ht => (exec_waitingKept hs.distinctGates hdock harrive t ht).keptOrAnswered

end

/-- Settles O43: `exec_keptOrAnswered` for every command, and `exec_waitingKept` for those that do not dock. -/
theorem noCommandAbandonsARequest : Obligations.NoCommandAbandonsARequest := by
  intro s t i hs ht k g hk
  have hwaiting (h : g.status = .readyForDeparture ∨ g.status = .justLeft ∨ g.status = .awaitingArrival) :
      g.waiting = true := decide_eq_true h
  refine ⟨fun hstatus => ?_, fun hawaits => ?_⟩
  · have hwaits := hwaiting (hstatus.imp_right .inl)
    obtain ⟨h, hh, rfl | ⟨hawaits, _⟩⟩ := exec_keptOrAnswered hs i t ht k g hk hwaits
    · exact ⟨h, hh, rfl, rfl, rfl⟩
    · rw [hawaits] at hstatus
      rcases hstatus with hready | hleft
      · cases hready
      · cases hleft
  · have hwaits := hwaiting (.inr (.inr hawaits))
    by_cases hdocks : i = .gateDock ∨ i = .termArriveChunk
    · obtain ⟨h, hh, hsame | ⟨_, hstatus, hresult, hrole, hevent⟩⟩ := exec_keptOrAnswered hs i t ht k g hk hwaits
      · exact ⟨h, hh, .inl hsame⟩
      · exact ⟨h, hh, .inr ⟨hstatus, hresult, hdocks, hrole, hevent⟩⟩
    · obtain ⟨hdock, harrive⟩ := not_or.mp hdocks
      exact ⟨g, exec_waitingKept hs.distinctGates hdock harrive t ht k g hk hwaits, .inl rfl⟩

end Sys2Proof.Machine
end

section
/-! PROOF of O4: NOP and the illegal command (46_system.md R223, R224). A CMD write is `runCommand` of the word written
(`step_cmdWrite`), and a word R89 calls illegal decodes to no command (`decodeAndEncodeAgree`). -/

namespace Sys2Proof.Machine

theorem exec_nop (s : State) : exec .nop s = finish .passed s := rfl

/-- A word that decodes to no command runs the illegal command, whichever the decoder's error is (R90). -/
theorem runCommand_of_error {w : Word} (h : ∃ e, decode w = .error e) (s : State) :
    runCommand w s = finish .incompatibility (s.report .illegalCmd) := by
  obtain ⟨e, he⟩ := h
  rw [runCommand, he, execIllegal]

/-- Settles O4: NOP by `exec_nop`, an illegal word by `step_cmdWrite` and `runCommand_of_error`. -/
theorem systemCommands : Obligations.SystemCommands := by
  refine ⟨exec_nop, fun s w rest hin hillegal => ?_⟩
  have herror : ∃ e, decode w = .error e := (decodeAndEncodeAgree.2 w).mpr hillegal
  rw [step_cmdWrite hin, runCommand_of_error herror]
  rfl

end Sys2Proof.Machine
end
